-- ==== Sys2Proof/Word.lean ====
section
/-! DEFINITION. The two widths of the block (00_scope.md section 6.1): a byte is 8 bits, a word is 32 bits. -/

namespace Sys2Proof

/-- A byte: buffer contents, status codes, address bytes, command headers. -/
abbrev Byte := BitVec 8

/-- A word: what one access of a bus-controller register moves (R47, R48). -/
abbrev Word := BitVec 32

/-- A callback handle. The block never inspects it (R16), so it is a bare number. DESIGN CHOICE, log 8. -/
abbrev Handle := Nat

end Sys2Proof
end

