-- ==== Sys2Proof/Syntax.lean ====
section
/-! DEFINITION. The instruction set as syntax: one constructor of `Instr` per row of spec/opcode_table.json, the operands, the
forms in which an instruction reaches the block (`Code`), and the turns the outside world takes (`Turn`). -/

namespace Sys2Proof

/-- The port indices a chip of the family may have: 1 to 3 ports, numbered from 0 (R4). Which of them exist is `Params.nports`. -/
inductive PortId where
  | p0 | p1 | p2
  deriving DecidableEq, Repr, Inhabited

/-- The number of a port (R4: zero-based). -/
def PortId.index : PortId → Nat
  | .p0 => 0
  | .p1 => 1
  | .p2 => 2

/-- The registers of one bus controller (R31). -/
inductive Reg where
  | conset | conclr | stat | dat | sclh | scll
  deriving DecidableEq, Repr, Inhabited

/-- The registers the block reads (R31, column "access by the block"). -/
inductive ReadReg where
  | conset | stat | dat
  deriving DecidableEq, Repr, Inhabited

/-- The registers the block writes (R31, column "access by the block"). -/
inductive WriteReg where
  | conset | conclr | dat | sclh | scll
  deriving DecidableEq, Repr, Inhabited

def ReadReg.reg : ReadReg → Reg
  | .conset => .conset
  | .stat => .stat
  | .dat => .dat

def WriteReg.reg : WriteReg → Reg
  | .conset => .conset
  | .conclr => .conclr
  | .dat => .dat
  | .sclh => .sclh
  | .scll => .scll

/-- A byte array of the caller in host memory (R30 (d), R53): where it starts and how many bytes it has. -/
structure HostArray where
  base : Nat
  len : Nat
  deriving DecidableEq, Repr, Inhabited

/-- The instructions: the rows of spec/opcode_table.json in the table's order. -/
inductive Instr where
  /-- EV_START, R81. -/
  | evStart (p : PortId)
  /-- EV_RSTART, R82. -/
  | evRstart (p : PortId)
  /-- EV_SLAW_ACK, R83. -/
  | evSlawAck (p : PortId)
  /-- EV_ADDR_NACK selected by SC.SLAW_NACK, R86: the write address was refused. -/
  | evAddrNackWrite (p : PortId)
  /-- EV_TXDATA_ACK, R84. -/
  | evTxdataAck (p : PortId)
  /-- EV_TXDATA_NACK, R85. -/
  | evTxdataNack (p : PortId)
  /-- EV_ARB_LOST, R95. -/
  | evArbLost (p : PortId)
  /-- EV_SLAR_ACK, R90. -/
  | evSlarAck (p : PortId)
  /-- EV_ADDR_NACK selected by SC.SLAR_NACK, R86: the read address was refused. -/
  | evAddrNackRead (p : PortId)
  /-- EV_RXDATA_ACK, R91. -/
  | evRxdataAck (p : PortId)
  /-- EV_RXDATA_NACK, R92. -/
  | evRxdataNack (p : PortId)
  /-- EV_UNRECOGNISED, R96, with the status byte that selected it. -/
  | evUnrecognised (p : PortId) (b : Byte)
  /-- INIT, R100. -/
  | init (p : PortId)
  /-- SET_HANDLER, R101: a handle, or null. -/
  | setHandler (p : PortId) (h : Option Handle)
  /-- WRITE, R102: device address `a`, `size` bytes of `data`. -/
  | write (p : PortId) (a : Nat) (data : HostArray) (size : Nat)
  /-- READ, R103: device address `a`, `nw` bytes of `txData`, then `nr` bytes into `out`. -/
  | read (p : PortId) (a : Nat) (txData : HostArray) (nw : Nat) (out : HostArray) (nr : Nat)
  /-- START, R108. -/
  | start (p : PortId)
  /-- STOP, R109. -/
  | stop (p : PortId)
  /-- GET_STATE, R107. -/
  | getState (p : PortId)
  /-- ENGINE, R104 to R106: internal to WRITE and READ. -/
  | engine (p : PortId)
  /-- AssertStart, R33. -/
  | assertStart (p : PortId)
  /-- ClearStartSI, R34. -/
  | clearStartSI (p : PortId)
  /-- AssertStop, R35. -/
  | assertStop (p : PortId)
  /-- AssertAck, R36. -/
  | assertAck (p : PortId)
  /-- AssertNack, R37. -/
  | assertNack (p : PortId)
  /-- ClearSI, R38. -/
  | clearSI (p : PortId)
  /-- WriteData, R39. -/
  | writeData (p : PortId) (b : Byte)
  /-- ReadData, R40. -/
  | readData (p : PortId)
  /-- ReadStatus, R41. -/
  | readStatus (p : PortId)
  /-- InitClear, R100 line 1. -/
  | initClear (p : PortId)
  /-- InitEnable, R100 line 4. -/
  | initEnable (p : PortId)
  /-- InitDivisors, R100 lines 2 and 3. -/
  | initDivisors (p : PortId)
  deriving DecidableEq, Repr, Inhabited

/-- The port an instruction names (R110, R136: each names exactly one). -/
def Instr.port : Instr → PortId
  | .evStart p | .evRstart p | .evSlawAck p | .evAddrNackWrite p | .evTxdataAck p | .evTxdataNack p
  | .evArbLost p | .evSlarAck p | .evAddrNackRead p | .evRxdataAck p | .evRxdataNack p | .evUnrecognised p _
  | .init p | .setHandler p _ | .write p _ _ _ | .read p _ _ _ _ _ | .start p | .stop p | .getState p | .engine p
  | .assertStart p | .clearStartSI p | .assertStop p | .assertAck p | .assertNack p | .clearSI p
  | .writeData p _ | .readData p | .readStatus p | .initClear p | .initEnable p | .initDivisors p => p

/-- The event classes (R59), as a family of instructions. -/
def Instr.isEvent : Instr → Bool
  | .evStart _ | .evRstart _ | .evSlawAck _ | .evAddrNackWrite _ | .evTxdataAck _ | .evTxdataNack _
  | .evArbLost _ | .evSlarAck _ | .evAddrNackRead _ | .evRxdataAck _ | .evRxdataNack _ | .evUnrecognised _ _ => true
  | _ => false

/-- What the command unit performs line by line: the seven commands and ENGINE (42_commands.md). -/
def Instr.isCommand : Instr → Bool
  | .init _ | .setHandler _ _ | .write _ _ _ _ | .read _ _ _ _ _ _ | .start _ | .stop _ | .getState _ | .engine _ => true
  | _ => false

/-- The operands that go with a command header (R65). A command uses those its row lists. -/
structure Operands where
  handle : Option Handle := none
  addr : Nat := 0
  src : HostArray := ⟨0, 0⟩
  srcSize : Nat := 0
  out : HostArray := ⟨0, 0⟩
  outSize : Nat := 0
  deriving DecidableEq, Repr, Inhabited

/-- A command as the host issues it: a header byte of format CMD and its operands (R65). -/
structure Request where
  header : Byte
  ops : Operands
  deriving DecidableEq, Repr, Inhabited

/-- One access of a bus-controller register (R31, R47). -/
inductive Access where
  | read (r : ReadReg)
  | write (r : WriteReg) (w : Word)
  deriving DecidableEq, Repr, Inhabited

/-- The forms in which an instruction is encoded (R55): the STAT word an event finds, a command of the host, or the register
accesses of an action. -/
inductive Code where
  | status (p : PortId) (w : Word)
  | command (r : Request)
  | access (p : PortId) (l : List Access)
  deriving DecidableEq, Repr, Inhabited

/-- One turn of one agent (R124). Which turn comes when is not fixed (R129, R132, R166). DESIGN CHOICE, log 1. -/
inductive Turn where
  /-- The command unit takes its next line, or accepts the host's next command. -/
  | command
  /-- The interrupt dispatch runs the event sequencer of `p`, if its interrupt is requested and enabled. -/
  | event (p : PortId)
  /-- The bus controller of `p` presents a status word and sets SI. -/
  | raise (p : PortId) (w : Word)
  /-- The bus controller of `p` loads the data register. -/
  | load (p : PortId) (w : Word)
  /-- The bus controller of `p` clears STOP: the STOP condition has been sent. -/
  | stopSent (p : PortId)
  /-- The host issues a command. -/
  | host (r : Request)
  /-- The host stores a byte in its own memory. -/
  | hostStore (a : Nat) (b : Byte)
  deriving DecidableEq, Repr, Inhabited

end Sys2Proof
end

