-- ==== Sys2Proof/Config.lean ====
section
/-! DEFINITION. What an implementation fixes (the parameters of 00_scope.md section 4, as plain data) and the free values the
spec leaves open, as opaque constants. -/

namespace Sys2Proof

/-- The parameter `SC`: the values of the eleven named status codes (R7, R58). -/
structure StatusCodes where
  start : Byte
  rstart : Byte
  slawAck : Byte
  slawNack : Byte
  txdataAck : Byte
  txdataNack : Byte
  arbLost : Byte
  slarAck : Byte
  slarNack : Byte
  rxdataAck : Byte
  rxdataNack : Byte
  deriving DecidableEq, Repr

/-- The parameter `FLAG`: the masks of the five flags in a control word (R7, R60). -/
structure FlagMasks where
  start : Word
  stop : Word
  si : Word
  ack : Word
  enable : Word
  deriving DecidableEq, Repr

/-- One port's row of the parameter `REG`: the addresses of its six registers (R7, R31). -/
structure RegMap where
  conset : Word
  conclr : Word
  stat : Word
  dat : Word
  sclh : Word
  scll : Word
  deriving DecidableEq, Repr

/-- The parameters of the machine (R4 to R8). They stand in State so that every statement about a state is a statement about
every value of them; no step changes them. DESIGN CHOICE, log 2. -/
structure Params where
  /-- `NPORTS`, R4. -/
  nports : Nat
  /-- `CAP`, R5. -/
  cap : Nat
  /-- `TIMEOUT_CEILING`, R6. -/
  ceiling : Nat
  /-- `SC`, R7. -/
  sc : StatusCodes
  /-- `FLAG`, R7. -/
  flag : FlagMasks
  /-- `REG`, R7: one row per port. -/
  reg0 : RegMap
  reg1 : RegMap
  reg2 : RegMap
  /-- `CLK`, R7: the divisor word for the high period. -/
  clkHigh : Word
  /-- `CLK`, R7: the divisor word for the low period. -/
  clkLow : Word
  /-- `ARB_LOST_SETS_STATE`, R8, R95. -/
  arbLostSetsState : Bool
  /-- `MANUAL_WAIT_BOUNDED`, R8, R108, R109. -/
  manualWaitBounded : Bool
  /-- `INIT_SETS_ENABLE`, R8, R100. -/
  initSetsEnable : Bool
  deriving DecidableEq, Repr

def StatusCodes.toList (c : StatusCodes) : List Byte :=
  [c.start, c.rstart, c.slawAck, c.slawNack, c.txdataAck, c.txdataNack, c.arbLost, c.slarAck, c.slarNack, c.rxdataAck,
    c.rxdataNack]

def FlagMasks.toList (f : FlagMasks) : List Word := [f.start, f.stop, f.si, f.ack, f.enable]

def RegMap.toList (m : RegMap) : List Word := [m.conset, m.conclr, m.stat, m.dat, m.sclh, m.scll]

def RegMap.addr (m : RegMap) : Reg → Word
  | .conset => m.conset
  | .conclr => m.conclr
  | .stat => m.stat
  | .dat => m.dat
  | .sclh => m.sclh
  | .scll => m.scll

/-- `REG[p]`. -/
def Params.regMap (P : Params) : PortId → RegMap
  | .p0 => P.reg0
  | .p1 => P.reg1
  | .p2 => P.reg2

/-- `REG[p][R]`, the address of register `R` of port `p` (00_scope.md section 6.3). -/
def Params.addrOf (P : Params) (p : PortId) (r : Reg) : Word := (P.regMap p).addr r

/-- The constraints of the parameter table of 00_scope.md section 4. -/
def Params.wf (P : Params) : Bool :=
  decide (1 ≤ P.nports) && decide (P.nports ≤ 3) && decide (2 ≤ P.cap) && decide (1 ≤ P.ceiling) &&
    decide P.sc.toList.Nodup &&
    P.flag.toList.all (fun m => m != 0 && m &&& 0xFFFFFF00 == 0) &&
    decide (P.flag.toList.Pairwise (fun a b => a &&& b = 0)) &&
    decide ((P.reg0.toList ++ P.reg1.toList ++ P.reg2.toList).Nodup) &&
    (P.reg0.toList ++ P.reg1.toList ++ P.reg2.toList).all (fun a => a &&& 3 == 0)

namespace Config

/-- What a byte of a transmit buffer holds after reset: R23 leaves it unspecified, "an arbitrary byte, drawn once". Free value,
DESIGN CHOICE, log 4. -/
opaque resetTx : PortId → Nat → Byte

/-- What a byte of a receive buffer holds after reset (R23). Free value, DESIGN CHOICE, log 4. -/
opaque resetRx : PortId → Nat → Byte

/-- The turns taken before the next turn the command unit is sure of, when the agenda is empty: which agents move, how often, and what
the environment and the host present, is open (R42, R129, R132, R166). Any finite list, none included. Free value, DESIGN CHOICE,
log 1. -/
opaque oracle : Nat → List Turn

/-- Whether the callback, invoked for the n-th time, returns: its body is outside the block (R3), which asks that it be "short and
non-blocking" (R133) and stops where it does not return (R156, U6). Free value, DESIGN CHOICE, log 15. -/
opaque callbackReturns : Nat → Bool

/-- `CLK.high` of the default parameters: OPEN, no value in the spec (R7). Free value, log 2. -/
opaque clkHigh : Word

/-- `CLK.low` of the default parameters: OPEN, no value in the spec (R7). Free value, log 2. -/
opaque clkLow : Word

/-- The control word after reset: R24 leaves it unspecified. PRESUMED, the family's I2CONSET, log 5. -/
def resetCtl : Word := 0x00000000

/-- The status register after reset: R24 leaves it unspecified. PRESUMED, the family's I2STAT, log 5. -/
def resetStat : Word := 0x000000F8

/-- The data register after reset: R24 leaves it unspecified. PRESUMED, the family's I2DAT, log 5. -/
def resetDat : Word := 0x00000000

/-- The divisor for the high period after reset: R24 leaves it unspecified. PRESUMED, the family's I2SCLH, log 5. -/
def resetSclh : Word := 0x00000004

/-- The divisor for the low period after reset: R24 leaves it unspecified. PRESUMED, the family's I2SCLL, log 5. -/
def resetScll : Word := 0x00000004

end Config

/-- The register map of one port at a base address, with the offsets of 93_implementation_defined.md G3. -/
def RegMap.atBase (b : Word) : RegMap :=
  { conset := b, stat := b + 0x04, dat := b + 0x08, sclh := b + 0x10, scll := b + 0x14, conclr := b + 0x18 }

/-- The parameters State.reset uses: the defaults of R58, R60, R8 and G3, the values of 95_test_vectors.md for `NPORTS`, `CAP`
and `TIMEOUT_CEILING`, and free divisor words. DESIGN CHOICE, log 2. -/
def Params.default : Params :=
  { nports := 2
    cap := 8
    ceiling := 100
    sc :=
      { start := 0x08, rstart := 0x10, slawAck := 0x18, slawNack := 0x20, txdataAck := 0x28, txdataNack := 0x30,
        arbLost := 0x38, slarAck := 0x40, slarNack := 0x48, rxdataAck := 0x50, rxdataNack := 0x58 }
    flag := { start := 0x20, stop := 0x10, si := 0x08, ack := 0x04, enable := 0x40 }
    reg0 := .atBase 0x4001C000
    reg1 := .atBase 0x4005C000
    reg2 := .atBase 0x400A0000
    clkHigh := Config.clkHigh
    clkLow := Config.clkLow
    arbLostSetsState := false
    manualWaitBounded := true
    initSetsEnable := true }

end Sys2Proof
end

