-- ==== Sys2Proof/WellFormed.lean ====
section
/-! DEFINITION. When an instruction is well formed for given parameters: its port exists (R4, R66), its host arrays are at least as
long as the sizes given with them (R53), a READ is within capacity (R103 line 0), and an unrecognised status byte is none of the
named codes (R59). An instruction that is not is refused by exec, or (the last check) is never decoded. -/

namespace Sys2Proof

/-- The port index is below `NPORTS` (R4, R66 (c)). -/
def Instr.portExists (P : Params) (i : Instr) : Bool := decide (i.port.index < P.nports)

/-- Every host array is at least as long as the size given with it (R53, U1). -/
def Instr.arraysLongEnough : Instr → Bool
  | .write _ _ data size => decide (size ≤ data.len)
  | .read _ _ txData nw out nr => decide (nw ≤ txData.len) && decide (nr ≤ out.len)
  | _ => true

/-- A READ is within the capacity of the buffers (R103 line 0, R159). -/
def Instr.readWithinCapacity (P : Params) : Instr → Bool
  | .read _ _ _ nw _ nr => decide (nw + 2 ≤ P.cap) && decide (nr ≤ P.cap)
  | _ => true

/-- The byte of EV_UNRECOGNISED is none of the named codes (R59). -/
def Instr.byteUnnamed (P : Params) : Instr → Bool
  | .evUnrecognised _ b => !P.sc.toList.contains b
  | _ => true

/-- A well-formed instruction. -/
def Instr.wf (P : Params) (i : Instr) : Bool :=
  i.portExists P && i.arraysLongEnough && i.readWithinCapacity P && i.byteUnnamed P

end Sys2Proof
end

