-- ==== Sys2Proof/Decode.lean ====
section
/-! DEFINITION. From words to instructions and back (30_encoding.md). `decode` is total: a status word gives an event (R57 to R59), a
host request gives a command or is rejected by name (R65, R66), register accesses give an action (R61). `encode` is written from
the same tables. `tableCode` and `decodeTableWord` read the words of spec/opcode_table.json. -/

namespace Sys2Proof

/-- Bits 7:0 of a word (R41, R57, R67). -/
def lowByte (w : Word) : Byte := w.setWidth 8

/-- A byte with zeros above it (R39, R67). -/
def zext32 (b : Byte) : Word := b.setWidth 32

/-- Why words are no instruction. -/
inductive Reject where
  /-- Command opcodes 7 to 15 (R66 (c)). -/
  | reservedOpcode (op : Nat)
  /-- Header bits 3:2 not zero (R66 (c)). -/
  | nonzeroHeaderBits
  /-- A port index not below `NPORTS` (R66 (c)). -/
  | noSuchPort (n : Nat)
  /-- Register accesses that are none of the block's actions (R61). -/
  | notAnAction
  deriving DecidableEq, Repr

/-- `classify` (R59), carried on to the instruction of port `p`: the event whose code equals the byte, EV_UNRECOGNISED for every
other byte. -/
def classify (c : StatusCodes) (p : PortId) (b : Byte) : Instr :=
  if b = c.start then .evStart p
  else if b = c.rstart then .evRstart p
  else if b = c.slawAck then .evSlawAck p
  else if b = c.slawNack then .evAddrNackWrite p
  else if b = c.txdataAck then .evTxdataAck p
  else if b = c.txdataNack then .evTxdataNack p
  else if b = c.arbLost then .evArbLost p
  else if b = c.slarAck then .evSlarAck p
  else if b = c.slarNack then .evAddrNackRead p
  else if b = c.rxdataAck then .evRxdataAck p
  else if b = c.rxdataNack then .evRxdataNack p
  else .evUnrecognised p b

/-- The port field of a command header, bits 1:0 (R55). -/
def headerPort (h : Byte) : Nat := (h &&& 0x03).toNat

/-- The opcode field of a command header, bits 7:4 (R55). -/
def headerOpcode (h : Byte) : Nat := (h >>> 4).toNat

/-- The port with a given number, if the chips of the family have it (R4). -/
def portOfNumber : Nat → Option PortId
  | 0 => some .p0
  | 1 => some .p1
  | 2 => some .p2
  | _ => none

/-- The command of an opcode, with the operands its row lists (R65). -/
def commandOf (op : Nat) (p : PortId) (o : Operands) : Except Reject Instr :=
  match op with
  | 0 => .ok (.init p)
  | 1 => .ok (.setHandler p o.handle)
  | 2 => .ok (.write p o.addr o.src o.srcSize)
  | 3 => .ok (.read p o.addr o.src o.srcSize o.out o.outSize)
  | 4 => .ok (.start p)
  | 5 => .ok (.stop p)
  | 6 => .ok (.getState p)
  | n => .error (.reservedOpcode n)

/-- A host request as a command (R65, R66 (c)). A header illegal in two ways is rejected under the name of the first test it fails: bits
3:2, then the port, then the opcode; the spec gives no order, and only the name depends on it. DESIGN CHOICE, log 18. -/
def decodeRequest (P : Params) (r : Request) : Except Reject Instr :=
  if r.header &&& 0x0C ≠ 0 then .error .nonzeroHeaderBits
  else
    match portOfNumber (headerPort r.header) with
    | none => .error (.noSuchPort (headerPort r.header))
    | some p =>
      if p.index < P.nports then commandOf (headerOpcode r.header) p r.ops
      else .error (.noSuchPort p.index)

/-- The word INIT writes to clear the hardware flags (R61, R100 line 1). -/
def FlagMasks.initClear (f : FlagMasks) : Word := f.ack ||| f.si ||| f.start ||| f.enable

/-- A write to CONSET as an action (R61). -/
def decodeConset (f : FlagMasks) (p : PortId) (w : Word) : Except Reject Instr :=
  if w = f.start then .ok (.assertStart p)
  else if w = f.stop then .ok (.assertStop p)
  else if w = f.ack then .ok (.assertAck p)
  else if w = f.enable then .ok (.initEnable p)
  else .error .notAnAction

/-- A write to CONCLR as an action (R61). -/
def decodeConclr (f : FlagMasks) (p : PortId) (w : Word) : Except Reject Instr :=
  if w = f.start ||| f.si then .ok (.clearStartSI p)
  else if w = f.ack then .ok (.assertNack p)
  else if w = f.si then .ok (.clearSI p)
  else if w = f.initClear then .ok (.initClear p)
  else .error .notAnAction

/-- One register access as an action (R33 to R41, R61). -/
def decodeOne (P : Params) (p : PortId) : Access → Except Reject Instr
  | .write .conset w => decodeConset P.flag p w
  | .write .conclr w => decodeConclr P.flag p w
  | .write .dat w => if w = zext32 (lowByte w) then .ok (.writeData p (lowByte w)) else .error .notAnAction
  | .write .sclh _ => .error .notAnAction
  | .write .scll _ => .error .notAnAction
  | .read .dat => .ok (.readData p)
  | .read .stat => .ok (.readStatus p)
  | .read .conset => .error .notAnAction

/-- Register accesses as an action: one access, or the two divisor writes of INIT in their order (R100 lines 2 and 3). -/
def decodeAccess (P : Params) (p : PortId) (l : List Access) : Except Reject Instr :=
  match l with
  | [a] => decodeOne P p a
  | [a, b] => if a = .write .sclh P.clkHigh ∧ b = .write .scll P.clkLow then .ok (.initDivisors p) else .error .notAnAction
  | _ => .error .notAnAction

/-- The decoder. -/
def decode (P : Params) : Code → Except Reject Instr
  | .status p w => .ok (classify P.sc p (lowByte w))
  | .command r => decodeRequest P r
  | .access p l => decodeAccess P p l

/-- The header byte of a command: opcode in bits 7:4, zero in 3:2, port in 1:0 (R55, R65). -/
def header (op : Nat) (p : PortId) : Byte := BitVec.ofNat 8 (16 * op + p.index)

/-- The encoder (R58, R61, R65). ENGINE has no encoding: it is internal to WRITE and READ (R65). -/
def encode (P : Params) : Instr → Option Code
  | .evStart p => some (.status p (zext32 P.sc.start))
  | .evRstart p => some (.status p (zext32 P.sc.rstart))
  | .evSlawAck p => some (.status p (zext32 P.sc.slawAck))
  | .evAddrNackWrite p => some (.status p (zext32 P.sc.slawNack))
  | .evTxdataAck p => some (.status p (zext32 P.sc.txdataAck))
  | .evTxdataNack p => some (.status p (zext32 P.sc.txdataNack))
  | .evArbLost p => some (.status p (zext32 P.sc.arbLost))
  | .evSlarAck p => some (.status p (zext32 P.sc.slarAck))
  | .evAddrNackRead p => some (.status p (zext32 P.sc.slarNack))
  | .evRxdataAck p => some (.status p (zext32 P.sc.rxdataAck))
  | .evRxdataNack p => some (.status p (zext32 P.sc.rxdataNack))
  | .evUnrecognised p b => some (.status p (zext32 b))
  | .init p => some (.command { header := header 0 p, ops := {} })
  | .setHandler p h => some (.command { header := header 1 p, ops := { handle := h } })
  | .write p a data size => some (.command { header := header 2 p, ops := { addr := a, src := data, srcSize := size } })
  | .read p a txData nw out nr =>
    some (.command { header := header 3 p, ops := { addr := a, src := txData, srcSize := nw, out := out, outSize := nr } })
  | .start p => some (.command { header := header 4 p, ops := {} })
  | .stop p => some (.command { header := header 5 p, ops := {} })
  | .getState p => some (.command { header := header 6 p, ops := {} })
  | .engine _ => none
  | .assertStart p => some (.access p [.write .conset P.flag.start])
  | .clearStartSI p => some (.access p [.write .conclr (P.flag.start ||| P.flag.si)])
  | .assertStop p => some (.access p [.write .conset P.flag.stop])
  | .assertAck p => some (.access p [.write .conset P.flag.ack])
  | .assertNack p => some (.access p [.write .conclr P.flag.ack])
  | .clearSI p => some (.access p [.write .conclr P.flag.si])
  | .writeData p b => some (.access p [.write .dat (zext32 b)])
  | .readData p => some (.access p [.read .dat])
  | .readStatus p => some (.access p [.read .stat])
  | .initClear p => some (.access p [.write .conclr P.flag.initClear])
  | .initEnable p => some (.access p [.write .conset P.flag.enable])
  | .initDivisors p => some (.access p [.write .sclh P.clkHigh, .write .scll P.clkLow])

/-- The instruction of a code, where there is one. -/
def decode? (P : Params) (c : Code) : Option Instr :=
  match decode P c with
  | .ok i => some i
  | .error _ => none

/-- The first of some codes that decodes. -/
def firstCode (P : Params) : List Code → Option Code
  | [] => none
  | c :: l => if (decode? P c).isSome then some c else firstCode P l

/-- Which code a word of spec/opcode_table.json stands for. The table gives words without the register or the interface they
travel on, and without a port: an 8-bit word is a named status code of port 0 where it is one, else a command header where it is
one, else an unrecognised status byte; a 32-bit word is the first of a write to CONSET, to CONCLR, to DAT of port 0 that is an
action. DESIGN CHOICE, log 9. -/
def tableCode (P : Params) (nbits w : Nat) : Option Code :=
  if nbits ≤ 8 then
    let b : Byte := BitVec.ofNat 8 w
    if P.sc.toList.contains b then some (.status .p0 (zext32 b))
    else firstCode P [.command { header := b, ops := {} }, .status .p0 (zext32 b)]
  else if nbits ≤ 32 then
    let v : Word := BitVec.ofNat 32 w
    firstCode P [.access .p0 [.write .conset v], .access .p0 [.write .conclr v], .access .p0 [.write .dat v]]
  else none

/-- The instruction the decoder reads from a word of spec/opcode_table.json, with the default parameters (log 2, log 9). -/
def decodeTableWord (nbits w : Nat) : Option Instr :=
  match tableCode Params.default nbits w with
  | some c => decode? Params.default c
  | none => none

end Sys2Proof
end

