-- ==== Sys2Proof/Machine/State.lean ====
section
/-! DEFINITION. The state of the machine as plain data: everything 10_state.md gives the block, the interface state it reaches, the
host memory, the trace, and the turns to come. The outcomes a step may have besides a next state, and the state after reset. -/

namespace Sys2Proof.Machine

/-- The Transaction State (R13), eleven values in the source's order. -/
inductive TxState where
  | idle | started | restarted | busy | dataAck | dataNack | nackOnAddress | nackOnData | arbitrationLost | timeOut | ok
  deriving DecidableEq, Repr, Inhabited

/-- What belongs to one port: its Port Context (R10), the registers of its bus controller (R18, R31, R32) and its enable bit in the
interrupt controller (R54). -/
structure Port where
  /-- Transmit buffer, `CAP` bytes (R10, R15). -/
  txbuf : List Byte
  /-- Receive buffer, `CAP` bytes (R10, R15). -/
  rxbuf : List Byte
  /-- Transmit length (R10). -/
  txlen : Nat
  /-- Transmit cursor (R10). -/
  txcur : Nat
  /-- Receive-bytes-requested (R10). -/
  rxreq : Nat
  /-- Receive cursor (R10). -/
  rxcur : Nat
  /-- The state register `state[p]` (R12, R13). -/
  state : TxState
  /-- The callback, if one is registered (R16). -/
  cb : Option Handle
  /-- The control word `ctl[p]` with the five flags (R18, R32). -/
  ctl : Word
  /-- The status register STAT (R31, R41). -/
  stat : Word
  /-- The data register DAT (R31). -/
  dat : Word
  /-- The divisor register SCLH (R31). -/
  sclh : Word
  /-- The divisor register SCLL (R31). -/
  scll : Word
  /-- The interrupt enable bit `irq_en[p]` (R18, R54). -/
  irqEn : Bool
  deriving DecidableEq, Repr

/-- One entry of the output trace (R19): an access of the block, or a firing of the callback, tagged with its port. -/
inductive TraceEntry where
  /-- RegRead: the register read and the word it gave. -/
  | regRead (p : PortId) (r : ReadReg) (w : Word)
  /-- RegWrite: the register written and the word. -/
  | regWrite (p : PortId) (r : WriteReg) (w : Word)
  /-- IRQEN(p) (R54). -/
  | irqEn (p : PortId)
  /-- CB(p), with the handle invoked (R128). -/
  | cb (p : PortId) (h : Handle)
  deriving DecidableEq, Repr

/-- A response of the command unit (R110). -/
inductive Response where
  /-- INIT, SET_HANDLER: none. -/
  | nothing
  /-- WRITE beyond capacity: `none` (R102). -/
  | rejected
  /-- WRITE, READ: `some(state code)`. -/
  | done (st : TxState)
  /-- ENGINE, GET_STATE, START: a state code. -/
  | state (st : TxState)
  /-- STOP: one bit, 1 stop completed, 0 timed out. -/
  | bit (b : Bool)
  deriving DecidableEq, Repr

/-- The command unit (R110, R124): the command in progress and how far it has come. -/
structure CommandUnit where
  /-- The command in progress; none when the unit is idle. -/
  cur : Option Instr
  /-- The WRITE or READ that ENGINE returns to (line 6 of R102 and R103). -/
  caller : Option Instr
  /-- The numbered line performed next (R132). Any number that is no later line of the command stands for its first line. -/
  line : Nat
  /-- The index `i` of a `for` line (R102, R103). -/
  idx : Nat
  /-- The local `S` of a wait loop (R105, R108). -/
  seen : TxState
  /-- The local `r`, the code ENGINE returns (R106). -/
  result : TxState
  deriving DecidableEq, Repr

/-- The callback bodies, the agent (e) of R124, as far as the block sees them. -/
structure CallbackBody where
  /-- How many invocations there have been. The model's own: the place at which `Config.callbackReturns` is asked (log 15). -/
  calls : Nat
  /-- The port whose event step invoked a callback that has not returned and never will; none while the block runs (R156, U6). -/
  hung : Option PortId
  deriving DecidableEq, Repr

/-- The machine. The last three fields and `params` are the model's own (log 1, log 2, log 3). -/
structure State where
  /-- The parameters (R4 to R8); no step changes them (log 2). -/
  params : Params
  /-- Port 0. -/
  port0 : Port
  /-- Port 1. -/
  port1 : Port
  /-- Port 2. -/
  port2 : Port
  /-- The command unit. -/
  cu : CommandUnit
  /-- The timeout counter (R17, R134). -/
  tmo : Nat
  /-- The last response of the command unit (R110, R133). -/
  resp : Option Response
  /-- Host memory (R30 (d), R53), in canonical form: addresses rising, no byte that an unlisted address reads as. -/
  hostMem : List Host.Cell
  /-- The output trace, oldest entry first (R19). -/
  trace : List TraceEntry
  /-- The callback bodies (R124 (e), R156). -/
  body : CallbackBody
  /-- Commands the host has issued and the unit has not accepted, oldest first (R110). That they wait in a queue without a bound is the
  model's, DESIGN CHOICE, log 19. -/
  requests : List Request
  /-- The turns to come, oldest first (log 1). -/
  agenda : List Turn
  /-- How many turns the oracle has given (log 1). -/
  draws : Nat
  /-- A register action placed to be run by itself (log 3). -/
  inject : Option (PortId × List Access)
  deriving DecidableEq, Repr

/-- Which buffer a `BufferOverrun` names (R45). -/
inductive Buffer where
  | tx | rx
  deriving DecidableEq, Repr

/-- Why the machine stops with a fault. -/
inductive Fault where
  /-- `BufferOverrun(p, which, index)`, R45, R121: raised by an access to a buffer outside `0 .. CAP-1` (TxNext, RxStore, the read
  of `txbuf[txlen]`, and the buffer accesses of WRITE and READ). Safe: the spec gives the access no meaning. `stopped` is the state the
  access was made in: it holds what the step had done before it (R82: `rxcur` reset; R91: the data register read; R80: STAT read) and
  nothing of the access itself (R45, U3). It is no state a step goes on from (R121). Log 16. -/
  | bufferOverrun (p : PortId) (which : Buffer) (index : Nat) (stopped : State)
  deriving DecidableEq, Repr

/-- Why the machine gives an instruction no step. -/
inductive Refusal where
  /-- An instruction without a meaning yet, by the mnemonic of its row; raised only by an arm of exec. Safe. -/
  | notModelled (mnemonic : String)
  /-- Words that are no instruction (R66, R121): raised when the command unit takes up a host request, or an injected action, that
  does not decode. Safe. -/
  | undecodable (r : Reject)
  /-- The port index is not below `NPORTS` (R66, R110, R121): raised by the meaning of every instruction. Safe. -/
  | noSuchPort (p : PortId)
  /-- A host array shorter than the size given with it (R53, R121, R158, U1): raised by WRITE and READ. Safe. -/
  | hostArrayTooShort
  /-- A READ beyond capacity (R103 line 0, R121, R159, U2). Safe. -/
  | readBeyondCapacity
  deriving DecidableEq, Repr

/-- What one step answers. -/
abbrev Result := Host.Outcome State Fault Refusal

/-- The idle command unit: no command in progress (R24). DESIGN CHOICE for the locals, log 6. -/
def CommandUnit.idle : CommandUnit :=
  { cur := none, caller := none, line := 0, idx := 0, seen := .idle, result := .idle }

/-- A port after reset (R23, R24): the buffers hold the bytes given, the bus controller what Config presumes (log 4, log 5). -/
def Port.reset (cap : Nat) (tx rx : Nat → Byte) : Port :=
  { txbuf := (List.range cap).map tx
    rxbuf := (List.range cap).map rx
    txlen := 0
    txcur := 0
    rxreq := 0
    rxcur := 0
    state := .idle
    cb := none
    ctl := Config.resetCtl
    stat := Config.resetStat
    dat := Config.resetDat
    sclh := Config.resetSclh
    scll := Config.resetScll
    irqEn := false }

/-- The machine after reset (R23, R24, R150, R151) with given parameters and given bytes in the buffers. -/
def State.resetWith (P : Params) (tx rx : PortId → Nat → Byte) : State :=
  { params := P
    port0 := .reset P.cap (tx .p0) (rx .p0)
    port1 := .reset P.cap (tx .p1) (rx .p1)
    port2 := .reset P.cap (tx .p2) (rx .p2)
    cu := .idle
    tmo := 0
    resp := none
    hostMem := []
    trace := []
    body := { calls := 0, hung := none }
    requests := []
    agenda := []
    draws := 0
    inject := none }

/-- The machine right after reset, with the default parameters (log 2) and free bytes in the buffers (log 4). -/
def State.reset : State := .resetWith .default Config.resetTx Config.resetRx

end Sys2Proof.Machine
end

