-- ==== Sys2Proof/Machine/Ops.lean ====
section
/-! DEFINITION. The named operations over ports, registers, host memory and the trace (20_memory.md), the nine actions (R33 to R41)
with INIT's three, and Fire and Finish (R87, R128). The block raises no exception and returns from none (R125, R130): the one
shared entry it has is the read of STAT at the start of an event (R80), `actReadStatus`. -/

namespace Sys2Proof.Machine

/-! ### Ports -/

/-- Port `p`. -/
def State.port (s : State) : PortId → Port
  | .p0 => s.port0
  | .p1 => s.port1
  | .p2 => s.port2

/-- Put a port back. -/
def State.setPort (s : State) (p : PortId) (x : Port) : State :=
  match p with
  | .p0 => { s with port0 := x }
  | .p1 => { s with port1 := x }
  | .p2 => { s with port2 := x }

/-- Change port `p`, and nothing else. -/
def State.modPort (s : State) (p : PortId) (f : Port → Port) : State := s.setPort p (f (s.port p))

/-- Append to the output trace (R19). -/
def State.log (s : State) (e : TraceEntry) : State := { s with trace := s.trace ++ [e] }

/-- `state[p] <- S` (R12, R131). -/
def putState (p : PortId) (S : TxState) (s : State) : State := s.modPort p fun x => { x with state := S }

/-! ### Host memory (R30 (d), R53) -/

/-- What a byte of host memory that is not listed reads as. DESIGN CHOICE, log 7. -/
def Memory.unlisted : Byte := 0

/-- The canonical form: addresses strictly rising, no entry that an unlisted address reads as. -/
abbrev Memory.wf (m : List Host.Cell) : Prop :=
  m.Pairwise (fun c d => c.1 < d.1) ∧ ∀ c ∈ m, c.2 ≠ Memory.unlisted

/-- One byte read (HostRead, R53). -/
def Memory.read : List Host.Cell → Nat → Byte
  | [], _ => Memory.unlisted
  | c :: m, a => if c.1 = a then c.2 else Memory.read m a

/-- A cell put before a memory, unless it holds what an unlisted address reads as. -/
def Memory.cons (a : Nat) (b : Byte) (m : List Host.Cell) : List Host.Cell :=
  if b = Memory.unlisted then m else (a, b) :: m

/-- One byte written (HostWrite, R53), in canonical form. -/
def Memory.write : List Host.Cell → Nat → Byte → List Host.Cell
  | [], a, b => Memory.cons a b []
  | c :: m, a, b =>
    if a < c.1 then Memory.cons a b (c :: m)
    else if a = c.1 then Memory.cons a b m
    else c :: Memory.write m a b

def State.hostRead (s : State) (a : Nat) : Byte := Memory.read s.hostMem a

def State.hostWrite (s : State) (a : Nat) (b : Byte) : State := { s with hostMem := Memory.write s.hostMem a b }

/-! ### The register interface (R30 (b), R31, R32, R47, R48) -/

/-- The word a register of the bus controller reads as; the control word reads back through CONSET (R31, R35). -/
def Port.readReg (x : Port) : ReadReg → Word
  | .conset => x.ctl
  | .stat => x.stat
  | .dat => x.dat

/-- What a write does to the bus controller (R32): CONSET sets the flags whose bits are 1, CONCLR clears them. DAT is one register: what
the block wrote reads back until the controller loads it. The spec leaves that reading to the environment (91_not_in_source.md N9);
DESIGN CHOICE, log 17. -/
def Port.writeReg (x : Port) (r : WriteReg) (w : Word) : Port :=
  match r with
  | .conset => { x with ctl := x.ctl ||| w }
  | .conclr => { x with ctl := x.ctl &&& ~~~w }
  | .dat => { x with dat := w }
  | .sclh => { x with sclh := w }
  | .scll => { x with scll := w }

/-- `RegRead(p, R)`: the state after it; the word is `(s.port p).readReg R`, and the trace keeps it (R19). -/
def regRead (p : PortId) (r : ReadReg) (s : State) : State := s.log (.regRead p r ((s.port p).readReg r))

/-- `RegWrite(p, R, v)` (R19, R32). -/
def regWrite (p : PortId) (r : WriteReg) (w : Word) (s : State) : State :=
  (s.modPort p fun x => x.writeReg r w).log (.regWrite p r w)

/-- `IrqEnable(p)` (R54). -/
def irqEnable (p : PortId) (s : State) : State := (s.modPort p fun x => { x with irqEn := true }).log (.irqEn p)

/-- The address a trace entry's access goes to (00_scope.md section 6.3: `RegRead(p, R)` is `MemRead(REG[p][R], 4)`). -/
def TraceEntry.address (P : Params) : TraceEntry → Option Word
  | .regRead p r _ => some (P.addrOf p r.reg)
  | .regWrite p r _ => some (P.addrOf p r.reg)
  | .irqEn _ => none
  | .cb _ _ => none

/-! ### Actions (R33 to R41, R61, R100) -/

/-- R33. -/
def actAssertStart (p : PortId) (s : State) : State := regWrite p .conset s.params.flag.start s

/-- R34: one write that clears both flags. -/
def actClearStartSI (p : PortId) (s : State) : State := regWrite p .conclr (s.params.flag.start ||| s.params.flag.si) s

/-- R35. -/
def actAssertStop (p : PortId) (s : State) : State := regWrite p .conset s.params.flag.stop s

/-- R36. -/
def actAssertAck (p : PortId) (s : State) : State := regWrite p .conset s.params.flag.ack s

/-- R37: NACK is asserted by clearing ACK. -/
def actAssertNack (p : PortId) (s : State) : State := regWrite p .conclr s.params.flag.ack s

/-- R38. -/
def actClearSI (p : PortId) (s : State) : State := regWrite p .conclr s.params.flag.si s

/-- R39. -/
def actWriteData (p : PortId) (b : Byte) (s : State) : State := regWrite p .dat (zext32 b) s

/-- R40: the state after the read; the byte is `dataByte p s`. -/
def actReadData (p : PortId) (s : State) : State := regRead p .dat s

/-- R40: bits 7:0 of DAT, the byte the bus controller received last. -/
def dataByte (p : PortId) (s : State) : Byte := lowByte (s.port p).dat

/-- R41, R80: the entry of an event, one read of STAT. -/
def actReadStatus (p : PortId) (s : State) : State := regRead p .stat s

/-- R100 line 1: every flag INIT names is cleared; STOP is not among them. -/
def actInitClear (p : PortId) (s : State) : State := regWrite p .conclr s.params.flag.initClear s

/-- R100 line 2. -/
def actDivisorHigh (p : PortId) (s : State) : State := regWrite p .sclh s.params.clkHigh s

/-- R100 line 3. -/
def actDivisorLow (p : PortId) (s : State) : State := regWrite p .scll s.params.clkLow s

/-- R100 line 4. -/
def actInitEnable (p : PortId) (s : State) : State := regWrite p .conset s.params.flag.enable s

/-! ### Callback (R87, R128) -/

/-- One invocation of a callback inside an event step of `p`. It runs inside the step (R126), so it has returned when the step ends,
or it never returns and the block is stopped from then on (R156, U6); which of the two is a free value (log 15). -/
def CallbackBody.invoke (b : CallbackBody) (p : PortId) : CallbackBody :=
  { calls := b.calls + 1, hung := if Config.callbackReturns b.calls then b.hung else some p }

/-- `Fire(p)`: the registered callback is invoked once; where none is registered, nothing happens (R128). What the body does besides
returning or not is outside the block (R3, log 15). -/
def fire (p : PortId) (s : State) : State :=
  match (s.port p).cb with
  | some h => { s.log (.cb p h) with body := s.body.invoke p }
  | none => s

/-- A step of the block: while a callback has not returned, no event step and no command-unit step runs (R156). -/
def unlessHung (s : State) (k : Result) : Result :=
  match s.body.hung with
  | none => k
  | some _ => .next s

/-- `Finish(p, S)`: the state is written first, then the callback fires (R87). -/
def finish (p : PortId) (S : TxState) (s : State) : State := fire p (putState p S s)

/-- The port exists, or the instruction is refused (R66 (c), R110). -/
def withPort (p : PortId) (s : State) (k : Result) : Result :=
  if p.index < s.params.nports then k else .refused (.noSuchPort p)

/-! ### The bus controller's own moves (R32, R42, R129) -/

/-- The bus controller presents a status word and sets SI. It holds one status code at a time and presents the next only after SI
has been cleared (R129). -/
def busRaise (p : PortId) (w : Word) (s : State) : State :=
  if (s.port p).ctl &&& s.params.flag.si = 0 then
    s.modPort p fun x => { x with stat := w, ctl := x.ctl ||| s.params.flag.si }
  else s

/-- The bus controller loads the data register (R124). -/
def busLoad (p : PortId) (w : Word) (s : State) : State := s.modPort p fun x => { x with dat := w }

/-- The bus controller clears STOP when the STOP condition has been sent (R32). -/
def busStopSent (p : PortId) (s : State) : State :=
  s.modPort p fun x => { x with ctl := x.ctl &&& ~~~s.params.flag.stop }

end Sys2Proof.Machine
end

