-- ==== Sys2Proof/Machine/Flags.lean ====
section
/-! DEFINITION. Every flag and condition the rules test: the flags of the control word (R18, R35, R122), the classes of the state
register with its codes (R14, R56), and the acknowledge decision (41_events_receive.md). -/

namespace Sys2Proof.Machine

/-- Whether a flag of the control word is set. -/
def Port.flagSet (x : Port) (m : Word) : Bool := x.ctl &&& m != 0

/-- `StopPending(p)` on the word read from CONSET (R35). -/
def stopPending (p : PortId) (s : State) : Bool := (s.port p).flagSet s.params.flag.stop

/-- An event step of `p` is enabled: the port exists, its interrupt is enabled and SI is set (R122). -/
def eventEnabled (p : PortId) (s : State) : Bool :=
  decide (p.index < s.params.nports) && (s.port p).irqEn && (s.port p).flagSet s.params.flag.si

/-- The code of a Transaction State (R56). -/
def TxState.code : TxState → BitVec 4
  | .idle => 0
  | .started => 1
  | .restarted => 2
  | .busy => 3
  | .dataAck => 4
  | .dataNack => 5
  | .nackOnAddress => 6
  | .nackOnData => 7
  | .arbitrationLost => 8
  | .timeOut => 9
  | .ok => 10

/-- `inflight(S)` (R14). -/
def TxState.inflight : TxState → Bool
  | .busy | .started | .restarted => true
  | _ => false

/-- The terminal class (R14). -/
def TxState.terminal : TxState → Bool
  | .ok | .nackOnAddress | .nackOnData | .timeOut | .arbitrationLost => true
  | _ => false

/-- `MoreThanOneLeft(p)` (41_events_receive.md; R90, R91). -/
def moreThanOneLeft (p : PortId) (s : State) : Bool := decide ((s.port p).rxcur + 1 < (s.port p).rxreq)

/-- `if MoreThanOneLeft(p) then AssertAck(p) else AssertNack(p)` (R90, R91). -/
def decideAck (p : PortId) (s : State) : State := if moreThanOneLeft p s then actAssertAck p s else actAssertNack p s

end Sys2Proof.Machine
end

