-- ==== Sys2Proof/Machine/Operands.lean ====
section
/-! DEFINITION. Operand forms: the address byte (R62), the buffer accesses with their cursors (R43 to R45), the operand checks of WRITE
and READ (R53, R103 line 0). An access outside the buffer faults with the state it was made in, so what the step did before it is kept
and it changes nothing itself (R45, R82, R91). -/

namespace Sys2Proof.Machine

/-- `AddrByte(a, rw) = ((a << 1) | rw)[7:0]` (R62); `rw` is false for write, true for read. -/
def addrByte (a : Nat) (rw : Bool) : Byte := BitVec.ofNat 8 ((a <<< 1) ||| rw.toNat)

/-- `txbuf[p][i]`, or `BufferOverrun` (R45). -/
def txFetch (p : PortId) (i : Nat) (s : State) (k : Byte → Result) : Result :=
  match (s.port p).txbuf[i]? with
  | some b => k b
  | none => .fault (.bufferOverrun p .tx i s)

/-- `txbuf[p][i] <- b`, or `BufferOverrun` (R45). -/
def txPut (p : PortId) (i : Nat) (b : Byte) (s : State) (k : State → Result) : Result :=
  if i < (s.port p).txbuf.length then k (s.modPort p fun x => { x with txbuf := x.txbuf.set i b })
  else .fault (.bufferOverrun p .tx i s)

/-- `rxbuf[p][i]`, or `BufferOverrun` (R45). -/
def rxFetch (p : PortId) (i : Nat) (s : State) (k : Byte → Result) : Result :=
  match (s.port p).rxbuf[i]? with
  | some b => k b
  | none => .fault (.bufferOverrun p .rx i s)

/-- `TxNext(p)`: a read at the transmit cursor with post-increment (R43). -/
def txNext (p : PortId) (s : State) (k : Byte → State → Result) : Result :=
  txFetch p (s.port p).txcur s fun b => k b (s.modPort p fun x => { x with txcur := x.txcur + 1 })

/-- `RxStore(p, b)`: a write at the receive cursor with post-increment (R44). -/
def rxStore (p : PortId) (b : Byte) (s : State) (k : State → Result) : Result :=
  if (s.port p).rxcur < (s.port p).rxbuf.length then
    k (s.modPort p fun x => { x with rxbuf := x.rxbuf.set x.rxcur b, rxcur := x.rxcur + 1 })
  else .fault (.bufferOverrun p .rx (s.port p).rxcur s)

/-- The source array of a WRITE or READ is as long as its size, or the command is refused (R53, U1). -/
def withArray (arr : HostArray) (size : Nat) (k : Result) : Result :=
  if size ≤ arr.len then k else .refused .hostArrayTooShort

/-- R103 line 0: `bytesToWrite + 2 <= CAP and bytesToRead <= CAP`, or the READ is refused. -/
def withCapacity (nw nr : Nat) (s : State) (k : Result) : Result :=
  if nw + 2 ≤ s.params.cap ∧ nr ≤ s.params.cap then k else .refused .readBeyondCapacity

end Sys2Proof.Machine
end

