-- ==== Sys2Proof/Machine/Actions.lean ====
section
/-! DEFINITION. The actions of 20_memory.md (R33 to R41) and of INIT (R61, R100) as instructions of their own. Event bodies and command
lines perform the same operations of Ops.lean. -/

namespace Sys2Proof.Machine

/-- AssertStart, R33. -/
def execAssertStart (p : PortId) (s : State) : Result := withPort p s (.next (actAssertStart p s))

/-- ClearStartSI, R34. -/
def execClearStartSI (p : PortId) (s : State) : Result := withPort p s (.next (actClearStartSI p s))

/-- AssertStop, R35. -/
def execAssertStop (p : PortId) (s : State) : Result := withPort p s (.next (actAssertStop p s))

/-- AssertAck, R36. -/
def execAssertAck (p : PortId) (s : State) : Result := withPort p s (.next (actAssertAck p s))

/-- AssertNack, R37. -/
def execAssertNack (p : PortId) (s : State) : Result := withPort p s (.next (actAssertNack p s))

/-- ClearSI, R38. -/
def execClearSI (p : PortId) (s : State) : Result := withPort p s (.next (actClearSI p s))

/-- WriteData, R39. -/
def execWriteData (p : PortId) (b : Byte) (s : State) : Result := withPort p s (.next (actWriteData p b s))

/-- ReadData, R40. The byte it hands its caller is in the trace entry, bits 7:0 (log 10). -/
def execReadData (p : PortId) (s : State) : Result := withPort p s (.next (actReadData p s))

/-- ReadStatus, R41. The byte it hands its caller is in the trace entry, bits 7:0 (log 10). -/
def execReadStatus (p : PortId) (s : State) : Result := withPort p s (.next (actReadStatus p s))

/-- InitClear, R61, R100 line 1. -/
def execInitClear (p : PortId) (s : State) : Result := withPort p s (.next (actInitClear p s))

/-- InitEnable, R61, R100 line 4. -/
def execInitEnable (p : PortId) (s : State) : Result := withPort p s (.next (actInitEnable p s))

/-- InitDivisors, R100 lines 2 and 3: SCLH, then SCLL. -/
def execInitDivisors (p : PortId) (s : State) : Result := withPort p s (.next (actDivisorLow p (actDivisorHigh p s)))

end Sys2Proof.Machine
end

