-- ==== Sys2Proof/Machine/Commands.lean ====
section
/-! DEFINITION. The commands and ENGINE (42_commands.md). A meaning performs ONE numbered line, the one `cu.line` names, since an event
may run between any two (R132); any number that is no later line of the command stands for its first line. A `for` line is one
step per byte; with no byte left it is passed without a step (R132). Line numbers are those of 42_commands.md; ENGINE's three
rules are numbered through: entry 1 to 3 (R104), wait 4 to 8 (R105), return 9 and 10 (R106). -/

namespace Sys2Proof.Machine

/-- Line `n` of `c` comes next. -/
def goto (c : Instr) (n : Nat) (s : State) : State := { s with cu := { s.cu with cur := some c, line := n } }

/-- Start a `for` line: its index is 0. -/
def goFor (c : Instr) (n : Nat) (s : State) : State := { s with cu := { s.cu with cur := some c, line := n, idx := 0 } }

/-- The next byte of a `for` line. -/
def nextByte (c : Instr) (n : Nat) (s : State) : State :=
  { s with cu := { s.cu with cur := some c, line := n, idx := s.cu.idx + 1 } }

/-- The command responds and the unit is idle (R110). -/
def respond (r : Response) (s : State) : State := { s with resp := some r, cu := .idle }

/-- `r <- ENGINE(p)`: ENGINE's first line comes next, and `c` goes on when it returns (line 6 of R102 and R103). -/
def callEngine (c : Instr) (s : State) : State :=
  { s with cu := { s.cu with cur := some (.engine c.port), caller := some c, line := 1 } }

/-- `return r` (R106): the caller goes on at the line after its call; ENGINE without a caller responds its code (R110). -/
def engineReturn (s : State) : State :=
  match s.cu.caller with
  | some c => { s with cu := { s.cu with cur := some c, caller := none, line := 7, idx := 0 } }
  | none => respond (.state s.cu.result) s

/-- `S <- state[p]` (R105, R108). -/
def seeState (p : PortId) (s : State) : State := { s with cu := { s.cu with seen := (s.port p).state } }

/-- `tmo <- 0` (R17). -/
def tmoReset (s : State) : State := { s with tmo := 0 }

/-- `tmo <- tmo + 1` (R17). -/
def tmoTick (s : State) : State := { s with tmo := s.tmo + 1 }

/-- INIT, R100. -/
def execInit (p : PortId) (s : State) : Result :=
  withPort p s <|
    match s.cu.line with
    | 2 => .next (goto (.init p) 3 (actDivisorHigh p s))
    | 3 => .next (goto (.init p) 4 (actDivisorLow p s))
    | 4 => .next (goto (.init p) 5 (if s.params.initSetsEnable then actInitEnable p s else s))
    | 5 => .next (goto (.init p) 6 (irqEnable p s))
    | 6 => .next (respond .nothing (putState p .idle s))
    | _ => .next (goto (.init p) 2 (actInitClear p s))

/-- SET_HANDLER, R101: a null handle removes the registration. -/
def execSetHandler (p : PortId) (h : Option Handle) (s : State) : Result :=
  withPort p s (.next (respond .nothing (s.modPort p fun x => { x with cb := h })))

/-- WRITE line 4: `txlen <- size + 1`. -/
def writeLength (p : PortId) (c : Instr) (size : Nat) (s : State) : Result :=
  .next (goto c 5 (s.modPort p fun x => { x with txlen := size + 1 }))

/-- WRITE, R102. A short array is refused first, before line 1 looks at the size (R53, log 11). -/
def execWrite (p : PortId) (a : Nat) (data : HostArray) (size : Nat) (s : State) : Result :=
  withPort p s <| withArray data size <|
    match s.cu.line with
    | 2 => txPut p 0 (addrByte a false) s fun t => .next (goFor (.write p a data size) 3 t)
    | 3 =>
      if s.cu.idx < size then
        txPut p (1 + s.cu.idx) (s.hostRead (data.base + s.cu.idx)) s fun t => .next (nextByte (.write p a data size) 3 t)
      else writeLength p (.write p a data size) size s
    | 4 => writeLength p (.write p a data size) size s
    | 5 => .next (goto (.write p a data size) 6 (s.modPort p fun x => { x with rxreq := 0 }))
    | 6 => .next (callEngine (.write p a data size) s)
    | 7 => .next (respond (.done s.cu.result) s)
    | _ =>
      if s.params.cap < size + 1 then .next (respond .rejected s)
      else .next (goto (.write p a data size) 2 s)

/-- READ line 3: `txbuf[p][bytesToWrite + 1] <- AddrByte(a, 1)`. -/
def readAddress (p : PortId) (c : Instr) (a nw : Nat) (s : State) : Result :=
  txPut p (nw + 1) (addrByte a true) s fun t => .next (goto c 4 t)

/-- READ, R103. -/
def execRead (p : PortId) (a : Nat) (txData : HostArray) (nw : Nat) (out : HostArray) (nr : Nat) (s : State) : Result :=
  withPort p s <| withArray txData nw <| withArray out nr <| withCapacity nw nr s <|
    match s.cu.line with
    | 1 => txPut p 0 (addrByte a false) s fun t => .next (goFor (.read p a txData nw out nr) 2 t)
    | 2 =>
      if s.cu.idx < nw then
        txPut p (1 + s.cu.idx) (s.hostRead (txData.base + s.cu.idx)) s fun t =>
          .next (nextByte (.read p a txData nw out nr) 2 t)
      else readAddress p (.read p a txData nw out nr) a nw s
    | 3 => readAddress p (.read p a txData nw out nr) a nw s
    | 4 => .next (goto (.read p a txData nw out nr) 5 (s.modPort p fun x => { x with txlen := nw + 1 }))
    | 5 => .next (goto (.read p a txData nw out nr) 6 (s.modPort p fun x => { x with rxreq := nr }))
    | 6 => .next (callEngine (.read p a txData nw out nr) s)
    | 7 =>
      if s.cu.idx < nr then
        rxFetch p s.cu.idx s fun b =>
          .next (nextByte (.read p a txData nw out nr) 7 (s.hostWrite (out.base + s.cu.idx) b))
      else .next (respond (.done s.cu.result) s)
    | 8 => .next (respond (.done s.cu.result) s)
    | _ => .next (goto (.read p a txData nw out nr) 1 s)

/-- ENGINE, R104 (lines 1 to 3), R105 (lines 4 to 8), R106 (lines 9 and 10). -/
def execEngine (p : PortId) (s : State) : Result :=
  withPort p s <|
    match s.cu.line with
    | 2 => .next (goto (.engine p) 3 (tmoReset s))
    | 3 => .next (goto (.engine p) 4 (actAssertStart p s))
    | 4 => .next (goto (.engine p) 5 (seeState p s))
    | 5 => .next (goto (.engine p) (if s.cu.seen.inflight then 6 else 9) s)
    | 6 => .next (goto (.engine p) 7 (tmoTick s))
    | 7 => .next (goto (.engine p) (if s.tmo = s.params.ceiling then 8 else 4) s)
    | 8 => .next (goto (.engine p) 9 (putState p .timeOut s))
    | 9 => .next (goto (.engine p) 10 { s with cu := { s.cu with result := (s.port p).state } })
    | 10 => .next (engineReturn s)
    | _ => .next (goto (.engine p) 2 (putState p .busy s))

/-- GET_STATE, R107. -/
def execGetState (p : PortId) (s : State) : Result := withPort p s (.next (respond (.state (s.port p).state) s))

/-- START, R108. -/
def execStart (p : PortId) (s : State) : Result :=
  withPort p s <|
    match s.cu.line with
    | 2 => .next (goto (.start p) 3 (tmoReset s))
    | 3 => .next (goto (.start p) 4 (actAssertStart p s))
    | 4 => .next (goto (.start p) 5 (seeState p s))
    | 5 => .next (goto (.start p) (if s.cu.seen = .busy then 6 else 10) s)
    | 6 => .next (goto (.start p) (if s.params.manualWaitBounded then 7 else 4) s)
    | 7 => .next (goto (.start p) 8 (tmoTick s))
    | 8 => .next (goto (.start p) (if s.tmo = s.params.ceiling then 9 else 4) s)
    | 9 => .next (goto (.start p) 10 (putState p .timeOut s))
    | 10 => .next (respond (.state (s.port p).state) s)
    | _ => .next (goto (.start p) 2 (putState p .busy s))

/-- STOP, R109. -/
def execStop (p : PortId) (s : State) : Result :=
  withPort p s <|
    match s.cu.line with
    | 2 => .next (goto (.stop p) 3 (actAssertStop p s))
    | 3 =>
      .next (if stopPending p s then goto (.stop p) 4 (regRead p .conset s) else respond (.bit true) (regRead p .conset s))
    | 4 => .next (goto (.stop p) (if s.params.manualWaitBounded then 5 else 3) s)
    | 5 => .next (goto (.stop p) 6 (tmoTick s))
    | 6 => .next (if s.tmo = s.params.ceiling then respond (.bit false) s else goto (.stop p) 3 s)
    | _ => .next (goto (.stop p) 2 (tmoReset s))

end Sys2Proof.Machine
end

