-- ==== Sys2Proof/Machine/EventsTransmit.lean ====
section
/-! DEFINITION. The event classes of START and of the transmit phase (40_events_transmit.md). Each is the body the frame of R80 performs
after it has read STAT; no body reads `state[p]`. -/

namespace Sys2Proof.Machine

/-- Send the byte at the transmit cursor and clear SI: the first branch of R83 and of R84. -/
def sendNext (p : PortId) (s : State) : Result := txNext p s fun b t => .next (actClearSI p (actWriteData p b t))

/-- Assert STOP, clear SI and end the transaction with `S`: the ending of R83, R84, R85, R86, R92. -/
def stopAndFinish (p : PortId) (S : TxState) (s : State) : State := finish p S (actClearSI p (actAssertStop p s))

/-- EV_START, R81. -/
def execEvStart (p : PortId) (s : State) : Result :=
  withPort p s <|
    txNext p (s.modPort p fun x => { x with txcur := 0 }) fun b t =>
      .next (putState p .started (actClearStartSI p (actWriteData p b t)))

/-- EV_RSTART, R82: the read-address byte is at index `txlen`; the transmit cursor does not move. With `txlen = CAP` the fault shows
`rxcur` reset and nothing else done. -/
def execEvRstart (p : PortId) (s : State) : Result :=
  withPort p s <|
    let t := s.modPort p fun x => { x with rxcur := 0 }
    txFetch p (s.port p).txlen t fun b => .next (putState p .restarted (actClearStartSI p (actWriteData p b t)))

/-- EV_SLAW_ACK, R83. -/
def execEvSlawAck (p : PortId) (s : State) : Result :=
  withPort p s <|
    if (s.port p).txcur < (s.port p).txlen then sendNext p s
    else .next (stopAndFinish p .ok s)

/-- EV_TXDATA_ACK, R84. -/
def execEvTxdataAck (p : PortId) (s : State) : Result :=
  withPort p s <|
    if (s.port p).txcur < (s.port p).txlen then sendNext p s
    else if (s.port p).rxreq > 0 then .next (actClearSI p (actAssertStart p s))
    else .next (stopAndFinish p .ok s)

/-- EV_TXDATA_NACK, R85. -/
def execEvTxdataNack (p : PortId) (s : State) : Result := withPort p s (.next (stopAndFinish p .nackOnData s))

/-- EV_ADDR_NACK of the write address, R86. -/
def execEvAddrNackWrite (p : PortId) (s : State) : Result := withPort p s (.next (stopAndFinish p .nackOnAddress s))

/-- EV_ADDR_NACK of the read address, R86. -/
def execEvAddrNackRead (p : PortId) (s : State) : Result := withPort p s (.next (stopAndFinish p .nackOnAddress s))

end Sys2Proof.Machine
end

