-- ==== Sys2Proof/Machine/EventsReceive.lean ====
section
/-! DEFINITION. The event classes of the receive phase, arbitration loss and unrecognised codes (41_events_receive.md). -/

namespace Sys2Proof.Machine

/-- EV_SLAR_ACK, R90. -/
def execEvSlarAck (p : PortId) (s : State) : Result := withPort p s (.next (actClearSI p (decideAck p s)))

/-- EV_RXDATA_ACK, R91: the acknowledge decision is made with the advanced cursor. With `rxcur = CAP` the fault shows the data register
read and nothing written. -/
def execEvRxdataAck (p : PortId) (s : State) : Result :=
  withPort p s <| rxStore p (dataByte p s) (actReadData p s) fun t => .next (actClearSI p (decideAck p t))

/-- EV_RXDATA_NACK, R92. -/
def execEvRxdataNack (p : PortId) (s : State) : Result :=
  withPort p s <| rxStore p (dataByte p s) (actReadData p s) fun t => .next (stopAndFinish p .ok t)

/-- EV_ARB_LOST, R95. -/
def execEvArbLost (p : PortId) (s : State) : Result :=
  withPort p s <|
    let t := actClearSI p s
    .next (if s.params.arbLostSetsState then finish p .arbitrationLost t else t)

/-- EV_UNRECOGNISED, R96: the byte is not recorded anywhere. -/
def execEvUnrecognised (p : PortId) (_b : Byte) (s : State) : Result := withPort p s (.next (actClearSI p s))

end Sys2Proof.Machine
end

