-- ==== Sys2Proof/Machine/Dispatch.lean ====
section
/-! DEFINITION. exec: one arm per constructor of Instr, each one call of that instruction's meaning. -/

namespace Sys2Proof.Machine

def exec (i : Instr) (s : State) : Host.Outcome State Fault Refusal :=
  match i with
  | .evStart p => Sys2Proof.Machine.execEvStart p s
  | .evRstart p => Sys2Proof.Machine.execEvRstart p s
  | .evSlawAck p => Sys2Proof.Machine.execEvSlawAck p s
  | .evAddrNackWrite p => Sys2Proof.Machine.execEvAddrNackWrite p s
  | .evTxdataAck p => Sys2Proof.Machine.execEvTxdataAck p s
  | .evTxdataNack p => Sys2Proof.Machine.execEvTxdataNack p s
  | .evArbLost p => Sys2Proof.Machine.execEvArbLost p s
  | .evSlarAck p => Sys2Proof.Machine.execEvSlarAck p s
  | .evAddrNackRead p => Sys2Proof.Machine.execEvAddrNackRead p s
  | .evRxdataAck p => Sys2Proof.Machine.execEvRxdataAck p s
  | .evRxdataNack p => Sys2Proof.Machine.execEvRxdataNack p s
  | .evUnrecognised p b => Sys2Proof.Machine.execEvUnrecognised p b s
  | .init p => Sys2Proof.Machine.execInit p s
  | .setHandler p h => Sys2Proof.Machine.execSetHandler p h s
  | .write p a data size => Sys2Proof.Machine.execWrite p a data size s
  | .read p a txData nw out nr => Sys2Proof.Machine.execRead p a txData nw out nr s
  | .start p => Sys2Proof.Machine.execStart p s
  | .stop p => Sys2Proof.Machine.execStop p s
  | .getState p => Sys2Proof.Machine.execGetState p s
  | .engine p => Sys2Proof.Machine.execEngine p s
  | .assertStart p => Sys2Proof.Machine.execAssertStart p s
  | .clearStartSI p => Sys2Proof.Machine.execClearStartSI p s
  | .assertStop p => Sys2Proof.Machine.execAssertStop p s
  | .assertAck p => Sys2Proof.Machine.execAssertAck p s
  | .assertNack p => Sys2Proof.Machine.execAssertNack p s
  | .clearSI p => Sys2Proof.Machine.execClearSI p s
  | .writeData p b => Sys2Proof.Machine.execWriteData p b s
  | .readData p => Sys2Proof.Machine.execReadData p s
  | .readStatus p => Sys2Proof.Machine.execReadStatus p s
  | .initClear p => Sys2Proof.Machine.execInitClear p s
  | .initEnable p => Sys2Proof.Machine.execInitEnable p s
  | .initDivisors p => Sys2Proof.Machine.execInitDivisors p s

end Sys2Proof.Machine
end

