-- ==== Sys2Proof/Machine/Fetch.lean ====
section
/-! DEFINITION. How an instruction comes to run: an event reads STAT and runs the body its byte selects (R80, R122); the command unit runs
the command in progress, or accepts the next request of the host (R110); the environment and the host move (R42, R124); an
injected action runs by itself (log 3). -/

namespace Sys2Proof.Machine

/-- Run the instruction a code stands for; what is no instruction is refused by name (R66, R121). -/
def runCode (c : Code) (s : State) : Result :=
  match decode s.params c with
  | .ok i => exec i s
  | .error r => .refused (.undecodable r)

/-- One event step of port `p`: one read of STAT, then the body of the class its byte selects (R80). -/
def handleInterrupt (p : PortId) (s : State) : Result := runCode (.status p (s.port p).stat) (actReadStatus p s)

/-- The interrupt dispatch runs the event sequencer of `p` where its event step is enabled (R122); otherwise nothing happens. -/
def eventTurn (p : PortId) (s : State) : Result := if eventEnabled p s then handleInterrupt p s else .next s

/-- The command unit performs the next line of the command in progress; an idle unit accepts a request of the host (R110). An idle unit
with no request does nothing. That commands issued meanwhile wait, oldest first, is DESIGN CHOICE, log 19. That accepting a request and
performing its first line are one step is DESIGN CHOICE, log 13. -/
def commandTurn (s : State) : Result :=
  match s.cu.cur, s.requests with
  | some i, _ => exec i s
  | none, [] => .next s
  | none, r :: l => runCode (.command r) { s with requests := l, cu := .idle }

/-- One turn of one agent (R124). The block's own, of the command unit and of an event sequencer, are none while a callback has not
returned (R126, R156). The host's turns go on meanwhile (DESIGN CHOICE, log 20: the spec leaves it open, since the host is part of the
foreground an interrupt preempts, yet R126 and R156 name only steps of events and of the command unit): a command it issues is queued
and a byte it stores is stored. So do the bus controllers' (DEDUCED, log 20). A command the host issues is queued even while another is
in progress (DESIGN CHOICE, log 19). -/
def takeTurn (t : Turn) (s : State) : Result :=
  match t with
  | .command => unlessHung s (commandTurn s)
  | .event p => unlessHung s (eventTurn p s)
  | .raise p w => .next (busRaise p w s)
  | .load p w => .next (busLoad p w s)
  | .stopSent p => .next (busStopSent p s)
  | .host r => .next { s with requests := s.requests ++ [r] }
  | .hostStore a b => .next (s.hostWrite a b)

/-- Run the injected action (log 3). -/
def runInjected (p : PortId) (l : List Access) (s : State) : Result := runCode (.access p l) { s with inject := none }

/-- An agenda that has run out is filled again: some finite number of turns, which the oracle chooses, none included, then one of the
command unit. So any number of turns may come between two lines of a command (R132, R166 (2)), no event need ever come (R166 (3)),
and the command unit is never passed over for ever, which is the fairness that lets every command end (R166 (1)). Log 1. -/
def State.schedule (s : State) : State :=
  match s.agenda with
  | [] => { s with agenda := Config.oracle s.draws ++ [.command], draws := s.draws + 1 }
  | _ :: _ => s

/-- Take the oldest turn of the agenda. -/
def takeOldest (s : State) : Result :=
  match s.agenda with
  | [] => .next s
  | t :: rest => takeTurn t { s with agenda := rest }

/-- Take up the next turn: the injected action if there is one, else the oldest turn of the agenda (log 1). -/
def nextTurn (s : State) : Result :=
  match s.inject with
  | some (p, l) => runInjected p l s
  | none => takeOldest s.schedule

/-- A state whose next step runs the instruction of a code: no callback holds the block; a status word is put in STAT with the interrupt
requested, enabled and dispatched next; a request is put first in the host's queue, with the unit idle and its turn next; an action is
injected. -/
def State.place (s : State) (c : Code) : State :=
  match c with
  | .status p w =>
    { s.modPort p fun x => { x with stat := w, ctl := x.ctl ||| s.params.flag.si, irqEn := true } with
      agenda := .event p :: s.agenda, inject := none, body := { s.body with hung := none } }
  | .command r =>
    { s with
      cu := .idle
      requests := r :: s.requests
      agenda := .command :: s.agenda
      inject := none
      body := { s.body with hung := none } }
  | .access p l => { s with inject := some (p, l) }

/-- The state whose next step runs the instruction of a word of spec/opcode_table.json (log 9). -/
def placeTableWord (s : State) (nbits w : Nat) : State :=
  match tableCode Params.default nbits w with
  | some c => s.place c
  | none => s

end Sys2Proof.Machine
end

