-- ==== Sys2Proof/Safety.lean ====
section
/-! DEFINITION. The terms claims are made in: what a meaning answers together with its frame, runs of several instructions or turns, what
the trace shows, and the invariant of the machine. -/

namespace Sys2Proof.Machine

/-! ### Frames -/

/-- Every port but `p` is unchanged. -/
def OtherPortsSame (p : PortId) (s t : State) : Prop := ∀ q, q ≠ p → t.port q = s.port q

/-- Nothing but ports, trace, callback bodies, command unit, `tmo` and response has changed: the parameters, every byte of host memory,
the host's queue and the turns to come are as before. -/
def RestSame (s t : State) : Prop :=
  t.params = s.params ∧ t.hostMem = s.hostMem ∧ (∀ a, t.hostRead a = s.hostRead a) ∧ t.requests = s.requests ∧
    t.agenda = s.agenda ∧ t.draws = s.draws ∧ t.inject = s.inject

/-- What the callbacks among some trace entries make of the callback bodies: each CB is one invocation, and nothing else is (R128). -/
def bodyAfter : List TraceEntry → CallbackBody → CallbackBody
  | [], b => b
  | .cb p _ :: l, b => bodyAfter l (b.invoke p)
  | .regRead _ _ _ :: l, b => bodyAfter l b
  | .regWrite _ _ _ :: l, b => bodyAfter l b
  | .irqEn _ :: l, b => bodyAfter l b

/-- The outcome `r`, reached from `s`, is a next state in which port `p` is `x`, the trace has grown by `es`, with one invocation of a
callback for each CB among `es` and no other, the command unit is `cu`, the timeout counter `tmo`, the response `resp`, and everything
else is as in `s`. -/
def Answers (r : Result) (s : State) (p : PortId) (x : Port) (es : List TraceEntry) (cu : CommandUnit) (tmo : Nat)
    (resp : Option Response) : Prop :=
  ∃ t, r = .next t ∧ t.port p = x ∧ t.trace = s.trace ++ es ∧ t.body = bodyAfter es s.body ∧ t.cu = cu ∧ t.tmo = tmo ∧
    t.resp = resp ∧ OtherPortsSame p s t ∧ RestSame s t

/-- As `Answers`, for what touches neither the command unit, `tmo` nor the response: events and actions. -/
def AnswersPort (r : Result) (s : State) (p : PortId) (x : Port) (es : List TraceEntry) : Prop :=
  Answers r s p x es s.cu s.tmo s.resp

/-- `t` is `s` with port `p` at `y`, the trace grown by `es`, callbacks invoked as `es` says, and nothing else changed. -/
def PortStep (s t : State) (p : PortId) (y : Port) (es : List TraceEntry) : Prop :=
  t.port p = y ∧ t.trace = s.trace ++ es ∧ t.body = bodyAfter es s.body ∧ t.cu = s.cu ∧ t.tmo = s.tmo ∧ t.resp = s.resp ∧
    OtherPortsSame p s t ∧ RestSame s t

/-- The outcome `r`, reached from `s`, is the fault `BufferOverrun(p, which, index)` (R121), and what had been done before the faulting
access is: port `p` is `y`, the trace has grown by `es`, and nothing else has changed. -/
def Overruns (r : Result) (s : State) (p : PortId) (which : Buffer) (index : Nat) (y : Port) (es : List TraceEntry) : Prop :=
  ∃ t, r = .fault (.bufferOverrun p which index t) ∧ PortStep s t p y es

/-- What firing the callback of a port adds to the trace (R128). -/
def cbEntries (p : PortId) (x : Port) : List TraceEntry :=
  match x.cb with
  | some h => [.cb p h]
  | none => []

/-! ### Runs -/

/-- Instructions run one after the other, with nothing between them; the first fault or refusal ends the run. -/
def runAll : List Instr → State → Result
  | [], s => .next s
  | i :: l, s =>
    match exec i s with
    | .next t => runAll l t
    | .fault f => .fault f
    | .refused r => .refused r

/-- Turns taken one after the other; the first fault or refusal ends the run. -/
def runTurns : List Turn → State → Result
  | [], s => .next s
  | u :: l, s =>
    match takeTurn u s with
    | .next t => runTurns l t
    | .fault f => .fault f
    | .refused r => .refused r

/-- Steps of the machine, one after the other; the first fault or refusal ends the run. -/
def runSteps : Nat → State → Result
  | 0, s => .next s
  | n + 1, s =>
    match step s with
    | .next t => runSteps n t
    | .fault f => .fault f
    | .refused r => .refused r

/-- The turns of one bus event in protocol order (R42): the controller presents the code, then the event step runs. -/
def busEvent (p : PortId) (code : Byte) : List Turn := [.raise p (zext32 code), .event p]

/-- The turns in which the bytes of a read arrive: each is loaded into the data register, all but the last with the code of an
acknowledged byte, the last with the code of an unacknowledged one. -/
def byteArrivals (p : PortId) (c : StatusCodes) : List Byte → List Turn
  | [] => []
  | [b] => .load p (zext32 b) :: busEvent p c.rxdataNack
  | b :: b' :: l => .load p (zext32 b) :: busEvent p c.rxdataAck ++ byteArrivals p c (b' :: l)

/-! ### What the trace shows -/

/-- The words written to a register of `p`, in order. -/
def wordsTo (p : PortId) (r : WriteReg) (l : List TraceEntry) : List Word :=
  l.filterMap fun e =>
    match e with
    | .regWrite q r' w => if q = p ∧ r' = r then some w else none
    | _ => none

/-- The register writes in a part of the trace, in order. -/
def regWrites (l : List TraceEntry) : List (PortId × WriteReg × Word) :=
  l.filterMap fun e =>
    match e with
    | .regWrite q r w => some (q, r, w)
    | _ => none

/-- The port of a trace entry (R19: each is tagged with its port). -/
def TraceEntry.port : TraceEntry → PortId
  | .regRead p _ _ => p
  | .regWrite p _ _ => p
  | .irqEn p => p
  | .cb p _ => p

/-- A register write of the words of R61, or one of the two divisor writes of INIT. -/
def wordListed (P : Params) : WriteReg → Word → Prop
  | .conset, w => w = P.flag.start ∨ w = P.flag.stop ∨ w = P.flag.ack ∨ w = P.flag.enable
  | .conclr, w =>
    w = P.flag.start ||| P.flag.si ∨ w = P.flag.ack ∨ w = P.flag.si ∨
      w = P.flag.ack ||| P.flag.si ||| P.flag.start ||| P.flag.enable
  | .dat, w => ∃ b, w = zext32 b
  | .sclh, w => w = P.clkHigh
  | .scll, w => w = P.clkLow

/-! ### Writes of the state register -/

/-- The table of R131: `i`, run at `s`, writes `S` to the state register of its port. -/
def writesState (i : Instr) (s : State) (S : TxState) : Prop :=
  match i with
  | .init _ => S = .idle ∧ s.cu.line = 6
  | .engine _ =>
    (S = .busy ∧ (s.cu.line < 2 ∨ 10 < s.cu.line)) ∨ (S = .timeOut ∧ s.cu.line = 8)
  | .start _ => (S = .busy ∧ (s.cu.line < 2 ∨ 10 < s.cu.line)) ∨ (S = .timeOut ∧ s.cu.line = 9)
  | .evStart _ => S = .started
  | .evRstart _ => S = .restarted
  | .evSlawAck p => S = .ok ∧ (s.port p).txlen ≤ (s.port p).txcur
  | .evTxdataAck p => S = .ok ∧ (s.port p).txlen ≤ (s.port p).txcur ∧ (s.port p).rxreq = 0
  | .evRxdataNack _ => S = .ok
  | .evTxdataNack _ => S = .nackOnData
  | .evAddrNackWrite _ => S = .nackOnAddress
  | .evAddrNackRead _ => S = .nackOnAddress
  | .evArbLost _ => S = .arbitrationLost ∧ s.params.arbLostSetsState = true
  | _ => False

/-! ### The invariant -/

/-- A port is sound: both buffers have `CAP` bytes (R10, R15), every length and cursor is at most `CAP` (R10), and the state
register holds none of the two states no rule writes (R13). -/
def Port.Sound (cap : Nat) (x : Port) : Prop :=
  x.txbuf.length = cap ∧ x.rxbuf.length = cap ∧ x.txlen ≤ cap ∧ x.txcur ≤ cap ∧ x.rxreq ≤ cap ∧ x.rxcur ≤ cap ∧
    x.state ≠ .dataAck ∧ x.state ≠ .dataNack

/-- The operands of a WRITE or READ fit the buffers (R102 line 1, R103 line 0). -/
def fits (P : Params) : Instr → Prop
  | .write _ _ _ size => size + 1 ≤ P.cap
  | .read _ _ _ nw _ nr => nw + 2 ≤ P.cap ∧ nr ≤ P.cap
  | _ => True

/-- The lines of a wait at which `tmo` is still below the ceiling (R105, R108, R109). -/
def tmoBelow : Instr → Nat → Prop
  | .engine _, n => 3 ≤ n ∧ n ≤ 6
  | .start _, n => 3 ≤ n ∧ n ≤ 7
  | .stop _, n => 2 ≤ n ∧ n ≤ 5
  | _, _ => False

/-- The lines of WRITE that come after its capacity test (R102). -/
def pastTest : Instr → Nat → Prop
  | .write _ _ _ _, n => 2 ≤ n ∧ n ≤ 7
  | .read _ _ _ _ _ _, n => 1 ≤ n ∧ n ≤ 8
  | _, _ => False

/-- Inside a wait the state seen at the start of the iteration was one that goes on waiting (R105 line 2, R108 line 5). -/
def waitedOn : Instr → Nat → TxState → Prop
  | .engine _, n, S => 6 ≤ n ∧ n ≤ 8 → S.inflight = true
  | .start _, n, S => 6 ≤ n ∧ n ≤ 9 → S = .busy
  | _, _, _ => True

/-- The command unit is sound: it holds a command (R110), past its capacity test the operands fit (R102, R103), while a wait goes on
`tmo` is below the ceiling (R17) and the state last seen was one to wait on, and ENGINE's caller is a WRITE or READ that fits. -/
def State.UnitSound (s : State) : Prop :=
  (∀ i, s.cu.cur = some i →
    i.isCommand = true ∧ (pastTest i s.cu.line → fits s.params i) ∧ (tmoBelow i s.cu.line → s.tmo < s.params.ceiling) ∧
      waitedOn i s.cu.line s.cu.seen) ∧
  ∀ i, s.cu.caller = some i →
    fits s.params i ∧ ((∃ p a d n, i = .write p a d n) ∨ ∃ p a d nw o nr, i = .read p a d nw o nr)

/-- The invariant of the machine: legal parameters, sound ports, `tmo` at most the ceiling (R17), a sound command unit, and host
memory in canonical form. -/
def State.Inv (s : State) : Prop :=
  s.params.wf = true ∧ (∀ p, (s.port p).Sound s.params.cap) ∧ s.tmo ≤ s.params.ceiling ∧ s.UnitSound ∧ Memory.wf s.hostMem

end Sys2Proof.Machine
end

