-- ==== Sys2Proof/Certificates/Slice0/Obligations.lean ====
section
/-! DEFINITION. The statements for the provers. Each docstring names the rule of spec/ it formalises. `Answers` and `AnswersPort`
(Safety.lean) say that the outcome IS a next state and give that state whole: port, trace, command unit, tmo, response, and that
everything else, every byte of host memory included, is as before; so such a statement is result, completion and frame in one. -/

open Sys2Proof Sys2Proof.Machine

/-! ### Events -/

/-- R81: EV_START sends the first byte of the transmit buffer, whatever the lengths and the state register hold. -/
def Obligations.EvStartSendsFirstByte : Prop :=
  ∀ (p : PortId) (s : State), p.index < s.params.nports → s.params.wf = true → (s.port p).txbuf.length = s.params.cap →
    ∃ b, (s.port p).txbuf[0]? = some b ∧
      AnswersPort (exec (.evStart p) s) s p
        { s.port p with
          txcur := 1
          state := .started
          dat := zext32 b
          ctl := (s.port p).ctl &&& ~~~(s.params.flag.start ||| s.params.flag.si) }
        [.regWrite p .dat (zext32 b), .regWrite p .conclr (s.params.flag.start ||| s.params.flag.si)]

/-- R82: EV_RSTART sends `txbuf[txlen]` and resets the receive cursor only; with `txlen = CAP` it is a BufferOverrun, and then `rxcur` has
been reset and nothing else has happened (V-EV-3; that the fault shows it is the model's form, log 16). -/
def Obligations.EvRstartSendsReadAddress : Prop :=
  ∀ (p : PortId) (s : State), p.index < s.params.nports →
    (∀ b, (s.port p).txbuf[(s.port p).txlen]? = some b →
      AnswersPort (exec (.evRstart p) s) s p
        { s.port p with
          rxcur := 0
          state := .restarted
          dat := zext32 b
          ctl := (s.port p).ctl &&& ~~~(s.params.flag.start ||| s.params.flag.si) }
        [.regWrite p .dat (zext32 b), .regWrite p .conclr (s.params.flag.start ||| s.params.flag.si)]) ∧
    ((s.port p).txbuf.length = s.params.cap → (s.port p).txlen = s.params.cap →
      Overruns (exec (.evRstart p) s) s p .tx s.params.cap { s.port p with rxcur := 0 } [])

/-- R83: EV_SLAW_ACK sends the next byte while `txcur < txlen`, and otherwise ends the transaction with OK. -/
def Obligations.EvSlawAckSendsOrStops : Prop :=
  ∀ (p : PortId) (s : State), p.index < s.params.nports →
    ((s.port p).txcur < (s.port p).txlen → ∀ b, (s.port p).txbuf[(s.port p).txcur]? = some b →
      AnswersPort (exec (.evSlawAck p) s) s p
        { s.port p with
          txcur := (s.port p).txcur + 1
          dat := zext32 b
          ctl := (s.port p).ctl &&& ~~~s.params.flag.si }
        [.regWrite p .dat (zext32 b), .regWrite p .conclr s.params.flag.si]) ∧
    ((s.port p).txlen ≤ (s.port p).txcur →
      AnswersPort (exec (.evSlawAck p) s) s p
        { s.port p with
          state := .ok
          ctl := ((s.port p).ctl ||| s.params.flag.stop) &&& ~~~s.params.flag.si }
        ([.regWrite p .conset s.params.flag.stop, .regWrite p .conclr s.params.flag.si] ++ cbEntries p (s.port p)))

/-- R84: EV_TXDATA_ACK sends the next byte, else asserts a repeated START when bytes were requested, else ends with OK. -/
def Obligations.EvTxdataAckThreeWays : Prop :=
  ∀ (p : PortId) (s : State), p.index < s.params.nports →
    ((s.port p).txcur < (s.port p).txlen → ∀ b, (s.port p).txbuf[(s.port p).txcur]? = some b →
      AnswersPort (exec (.evTxdataAck p) s) s p
        { s.port p with
          txcur := (s.port p).txcur + 1
          dat := zext32 b
          ctl := (s.port p).ctl &&& ~~~s.params.flag.si }
        [.regWrite p .dat (zext32 b), .regWrite p .conclr s.params.flag.si]) ∧
    ((s.port p).txlen ≤ (s.port p).txcur → 0 < (s.port p).rxreq →
      AnswersPort (exec (.evTxdataAck p) s) s p
        { s.port p with ctl := ((s.port p).ctl ||| s.params.flag.start) &&& ~~~s.params.flag.si }
        [.regWrite p .conset s.params.flag.start, .regWrite p .conclr s.params.flag.si]) ∧
    ((s.port p).txlen ≤ (s.port p).txcur → (s.port p).rxreq = 0 →
      AnswersPort (exec (.evTxdataAck p) s) s p
        { s.port p with
          state := .ok
          ctl := ((s.port p).ctl ||| s.params.flag.stop) &&& ~~~s.params.flag.si }
        ([.regWrite p .conset s.params.flag.stop, .regWrite p .conclr s.params.flag.si] ++ cbEntries p (s.port p)))

/-- R85, R86: a refused data byte ends the transaction with NACK_ON_DATA, a refused address byte, write or read, with
NACK_ON_ADDRESS; STOP is asserted once, the cursors keep their values. -/
def Obligations.NackEventsStopAndReport : Prop :=
  ∀ (p : PortId) (s : State), p.index < s.params.nports →
    ∀ (i : Instr) (S : TxState),
      (i = .evTxdataNack p ∧ S = .nackOnData) ∨ (i = .evAddrNackWrite p ∧ S = .nackOnAddress) ∨
        (i = .evAddrNackRead p ∧ S = .nackOnAddress) →
      AnswersPort (exec i s) s p
        { s.port p with
          state := S
          ctl := ((s.port p).ctl ||| s.params.flag.stop) &&& ~~~s.params.flag.si }
        ([.regWrite p .conset s.params.flag.stop, .regWrite p .conclr s.params.flag.si] ++ cbEntries p (s.port p))

/-- R90: EV_SLAR_ACK asserts ACK when more than one byte is left, else NACK, then clears SI; the state register stays. -/
def Obligations.EvSlarAckDecidesAck : Prop :=
  ∀ (p : PortId) (s : State), p.index < s.params.nports →
    ((s.port p).rxcur + 1 < (s.port p).rxreq →
      AnswersPort (exec (.evSlarAck p) s) s p
        { s.port p with ctl := ((s.port p).ctl ||| s.params.flag.ack) &&& ~~~s.params.flag.si }
        [.regWrite p .conset s.params.flag.ack, .regWrite p .conclr s.params.flag.si]) ∧
    ((s.port p).rxreq ≤ (s.port p).rxcur + 1 →
      AnswersPort (exec (.evSlarAck p) s) s p
        { s.port p with ctl := ((s.port p).ctl &&& ~~~s.params.flag.ack) &&& ~~~s.params.flag.si }
        [.regWrite p .conclr s.params.flag.ack, .regWrite p .conclr s.params.flag.si])

/-- R91: EV_RXDATA_ACK stores the received byte at the cursor, advances it, and decides the acknowledge with the advanced cursor; with
`rxcur = CAP` it is a BufferOverrun, and then the data register has been read and nothing has been written (the fault's form: log 16). -/
def Obligations.EvRxdataAckStoresAndDecides : Prop :=
  ∀ (p : PortId) (s : State), p.index < s.params.nports →
    ((s.port p).rxcur < (s.port p).rxbuf.length → (s.port p).rxcur + 2 < (s.port p).rxreq →
      AnswersPort (exec (.evRxdataAck p) s) s p
        { s.port p with
          rxbuf := (s.port p).rxbuf.set (s.port p).rxcur (lowByte (s.port p).dat)
          rxcur := (s.port p).rxcur + 1
          ctl := ((s.port p).ctl ||| s.params.flag.ack) &&& ~~~s.params.flag.si }
        [.regRead p .dat (s.port p).dat, .regWrite p .conset s.params.flag.ack, .regWrite p .conclr s.params.flag.si]) ∧
    ((s.port p).rxcur < (s.port p).rxbuf.length → (s.port p).rxreq ≤ (s.port p).rxcur + 2 →
      AnswersPort (exec (.evRxdataAck p) s) s p
        { s.port p with
          rxbuf := (s.port p).rxbuf.set (s.port p).rxcur (lowByte (s.port p).dat)
          rxcur := (s.port p).rxcur + 1
          ctl := ((s.port p).ctl &&& ~~~s.params.flag.ack) &&& ~~~s.params.flag.si }
        [.regRead p .dat (s.port p).dat, .regWrite p .conclr s.params.flag.ack, .regWrite p .conclr s.params.flag.si]) ∧
    ((s.port p).rxbuf.length = s.params.cap → (s.port p).rxcur = s.params.cap →
      Overruns (exec (.evRxdataAck p) s) s p .rx s.params.cap (s.port p) [.regRead p .dat (s.port p).dat])

/-- R92: EV_RXDATA_NACK stores the last byte, advances the cursor, asserts STOP and ends with OK, however many bytes were requested;
with `rxcur = CAP` it is a BufferOverrun, made after the read of the data register and before anything is written (log 16). -/
def Obligations.EvRxdataNackStoresAndEnds : Prop :=
  ∀ (p : PortId) (s : State), p.index < s.params.nports →
    ((s.port p).rxcur < (s.port p).rxbuf.length →
      AnswersPort (exec (.evRxdataNack p) s) s p
        { s.port p with
          rxbuf := (s.port p).rxbuf.set (s.port p).rxcur (lowByte (s.port p).dat)
          rxcur := (s.port p).rxcur + 1
          state := .ok
          ctl := ((s.port p).ctl ||| s.params.flag.stop) &&& ~~~s.params.flag.si }
        ([.regRead p .dat (s.port p).dat, .regWrite p .conset s.params.flag.stop,
          .regWrite p .conclr s.params.flag.si] ++ cbEntries p (s.port p))) ∧
    ((s.port p).rxbuf.length = s.params.cap → (s.port p).rxcur = s.params.cap →
      Overruns (exec (.evRxdataNack p) s) s p .rx s.params.cap (s.port p) [.regRead p .dat (s.port p).dat])

/-- R95: EV_ARB_LOST clears SI and, under the default, writes nothing else; with ARB_LOST_SETS_STATE it writes ARBITRATION_LOST and
fires the callback. -/
def Obligations.EvArbLostClearsSI : Prop :=
  ∀ (p : PortId) (s : State), p.index < s.params.nports →
    (s.params.arbLostSetsState = false →
      AnswersPort (exec (.evArbLost p) s) s p { s.port p with ctl := (s.port p).ctl &&& ~~~s.params.flag.si }
        [.regWrite p .conclr s.params.flag.si]) ∧
    (s.params.arbLostSetsState = true →
      AnswersPort (exec (.evArbLost p) s) s p
        { s.port p with state := .arbitrationLost, ctl := (s.port p).ctl &&& ~~~s.params.flag.si }
        ([.regWrite p .conclr s.params.flag.si] ++ cbEntries p (s.port p)))

/-- R96: EV_UNRECOGNISED clears SI and nothing else; the status byte is not recorded. -/
def Obligations.EvUnrecognisedClearsSI : Prop :=
  ∀ (p : PortId) (b : Byte) (s : State), p.index < s.params.nports →
    AnswersPort (exec (.evUnrecognised p b) s) s p { s.port p with ctl := (s.port p).ctl &&& ~~~s.params.flag.si }
      [.regWrite p .conclr s.params.flag.si]

/-- R45: with buffers of `CAP` bytes, an event faults exactly when it accesses a buffer outside `0 .. CAP-1`, and the fault names the
port, the buffer and the index. The access touches no state: the fault shows what the event had done before it, which is the reset of
`rxcur` (R82), nothing (R83, R84), or the read of the data register (R91, R92), in the model's form (log 16). -/
def Obligations.EventFaultsExactlyOnOverrun : Prop :=
  ∀ (i : Instr) (s : State) (f : Fault), i.isEvent = true → i.port.index < s.params.nports → s.params.wf = true →
    (s.port i.port).txbuf.length = s.params.cap → (s.port i.port).rxbuf.length = s.params.cap →
    (exec i s = .fault f ↔
      (i = .evRstart i.port ∧ s.params.cap ≤ (s.port i.port).txlen ∧
        f = .bufferOverrun i.port .tx (s.port i.port).txlen (s.modPort i.port fun x => { x with rxcur := 0 })) ∨
      ((i = .evSlawAck i.port ∨ i = .evTxdataAck i.port) ∧ (s.port i.port).txcur < (s.port i.port).txlen ∧
        s.params.cap ≤ (s.port i.port).txcur ∧ f = .bufferOverrun i.port .tx (s.port i.port).txcur s) ∨
      ((i = .evRxdataAck i.port ∨ i = .evRxdataNack i.port) ∧ s.params.cap ≤ (s.port i.port).rxcur ∧
        f = .bufferOverrun i.port .rx (s.port i.port).rxcur (s.log (.regRead i.port .dat (s.port i.port).dat))))

/-! ### Actions -/

/-- R33, R34, R36, R37, R38 (and the action of R35): each control action is one register write of its word, which sets or clears
exactly its flags. -/
def Obligations.ControlActionsWriteOneWord : Prop :=
  ∀ (p : PortId) (s : State), p.index < s.params.nports →
    (∀ (i : Instr) (m : Word),
      (i = .assertStart p ∧ m = s.params.flag.start) ∨ (i = .assertStop p ∧ m = s.params.flag.stop) ∨
        (i = .assertAck p ∧ m = s.params.flag.ack) →
      AnswersPort (exec i s) s p { s.port p with ctl := (s.port p).ctl ||| m } [.regWrite p .conset m]) ∧
    (∀ (i : Instr) (m : Word),
      (i = .clearStartSI p ∧ m = s.params.flag.start ||| s.params.flag.si) ∨ (i = .assertNack p ∧ m = s.params.flag.ack) ∨
        (i = .clearSI p ∧ m = s.params.flag.si) →
      AnswersPort (exec i s) s p { s.port p with ctl := (s.port p).ctl &&& ~~~m } [.regWrite p .conclr m])

/-- 20_memory.md section 3 (R39, R40, R41, R67): WriteData writes the byte with zeros above it; ReadData and ReadStatus are one read of
DAT and of STAT that changes nothing. That the byte they hand over stands, when they run alone, in the trace entry only is the model's
choice (log 10). -/
def Obligations.DataAndStatusActions : Prop :=
  ∀ (p : PortId) (b : Byte) (s : State), p.index < s.params.nports →
    AnswersPort (exec (.writeData p b) s) s p { s.port p with dat := zext32 b } [.regWrite p .dat (zext32 b)] ∧
    (zext32 b).toNat = b.toNat ∧
    AnswersPort (exec (.readData p) s) s p (s.port p) [.regRead p .dat (s.port p).dat] ∧
    AnswersPort (exec (.readStatus p) s) s p (s.port p) [.regRead p .stat (s.port p).stat]

/-- R61, R100 lines 1 to 4: the register writes of INIT as actions of their own. -/
def Obligations.InitActionsWriteTheirWords : Prop :=
  ∀ (p : PortId) (s : State), p.index < s.params.nports →
    AnswersPort (exec (.initClear p) s) s p
      { s.port p with
        ctl := (s.port p).ctl &&&
          ~~~(s.params.flag.ack ||| s.params.flag.si ||| s.params.flag.start ||| s.params.flag.enable) }
      [.regWrite p .conclr (s.params.flag.ack ||| s.params.flag.si ||| s.params.flag.start ||| s.params.flag.enable)] ∧
    AnswersPort (exec (.initEnable p) s) s p { s.port p with ctl := (s.port p).ctl ||| s.params.flag.enable }
      [.regWrite p .conset s.params.flag.enable] ∧
    AnswersPort (exec (.initDivisors p) s) s p { s.port p with sclh := s.params.clkHigh, scll := s.params.clkLow }
      [.regWrite p .sclh s.params.clkHigh, .regWrite p .scll s.params.clkLow]

/-! ### Commands -/

/-- R100, line by line: what each of the six lines of INIT does, and that the last responds and leaves the unit idle. The line numbers
are the model's (log 13): any number that is no later line stands for the first. -/
def Obligations.InitPerformsItsLines : Prop :=
  ∀ (p : PortId) (s : State), p.index < s.params.nports →
    (s.cu.line < 2 ∨ 6 < s.cu.line →
      Answers (exec (.init p) s) s p
        { s.port p with
          ctl := (s.port p).ctl &&&
            ~~~(s.params.flag.ack ||| s.params.flag.si ||| s.params.flag.start ||| s.params.flag.enable) }
        [.regWrite p .conclr (s.params.flag.ack ||| s.params.flag.si ||| s.params.flag.start ||| s.params.flag.enable)]
        { s.cu with cur := some (.init p), line := 2 } s.tmo s.resp) ∧
    (s.cu.line = 2 →
      Answers (exec (.init p) s) s p { s.port p with sclh := s.params.clkHigh } [.regWrite p .sclh s.params.clkHigh]
        { s.cu with cur := some (.init p), line := 3 } s.tmo s.resp) ∧
    (s.cu.line = 3 →
      Answers (exec (.init p) s) s p { s.port p with scll := s.params.clkLow } [.regWrite p .scll s.params.clkLow]
        { s.cu with cur := some (.init p), line := 4 } s.tmo s.resp) ∧
    (s.cu.line = 4 → s.params.initSetsEnable = true →
      Answers (exec (.init p) s) s p { s.port p with ctl := (s.port p).ctl ||| s.params.flag.enable }
        [.regWrite p .conset s.params.flag.enable] { s.cu with cur := some (.init p), line := 5 } s.tmo s.resp) ∧
    (s.cu.line = 4 → s.params.initSetsEnable = false →
      Answers (exec (.init p) s) s p (s.port p) [] { s.cu with cur := some (.init p), line := 5 } s.tmo s.resp) ∧
    (s.cu.line = 5 →
      Answers (exec (.init p) s) s p { s.port p with irqEn := true } [.irqEn p]
        { s.cu with cur := some (.init p), line := 6 } s.tmo s.resp) ∧
    (s.cu.line = 6 →
      Answers (exec (.init p) s) s p { s.port p with state := .idle } [] .idle s.tmo (some .nothing))

/-- R100 as a whole: its six lines with nothing between them clear the flags, load the divisors, enable controller (under the switch) and
interrupt and write IDLE; buffers, lengths, cursors and callback keep their values. That this is a run of six steps from line 0 of the
model's command unit, line 4 a step whatever the switch, is the model's choice (log 13). -/
def Obligations.InitPreparesThePort : Prop :=
  ∀ (p : PortId) (s : State), p.index < s.params.nports → s.cu.line = 0 →
    Answers (runAll (List.replicate 6 (.init p)) s) s p
      { s.port p with
        ctl :=
          if s.params.initSetsEnable then
            ((s.port p).ctl &&&
              ~~~(s.params.flag.ack ||| s.params.flag.si ||| s.params.flag.start ||| s.params.flag.enable)) |||
              s.params.flag.enable
          else
            (s.port p).ctl &&&
              ~~~(s.params.flag.ack ||| s.params.flag.si ||| s.params.flag.start ||| s.params.flag.enable)
        sclh := s.params.clkHigh
        scll := s.params.clkLow
        irqEn := true
        state := .idle }
      ([.regWrite p .conclr (s.params.flag.ack ||| s.params.flag.si ||| s.params.flag.start ||| s.params.flag.enable),
        .regWrite p .sclh s.params.clkHigh, .regWrite p .scll s.params.clkLow] ++
        (if s.params.initSetsEnable then [.regWrite p .conset s.params.flag.enable] else []) ++ [.irqEn p])
      .idle s.tmo (some .nothing)

/-- R101: SET_HANDLER registers, replaces or, with null, removes the callback; no register access. -/
def Obligations.SetHandlerStoresTheHandle : Prop :=
  ∀ (p : PortId) (h : Option Handle) (s : State), p.index < s.params.nports →
    Answers (exec (.setHandler p h) s) s p { s.port p with cb := h } [] .idle s.tmo (some .nothing)

/-- R107: GET_STATE responds the state register and changes nothing. -/
def Obligations.GetStateRespondsTheState : Prop :=
  ∀ (p : PortId) (s : State), p.index < s.params.nports →
    Answers (exec (.getState p) s) s p (s.port p) [] .idle s.tmo (some (.state (s.port p).state))

/-- R102, line by line. The line numbers are the model's (log 13): any number that is no later line stands for the first. -/
def Obligations.WritePerformsItsLines : Prop :=
  ∀ (p : PortId) (a : Nat) (data : HostArray) (size : Nat) (s : State), p.index < s.params.nports → size ≤ data.len →
    (s.cu.line < 2 ∨ 7 < s.cu.line → s.params.cap < size + 1 →
      Answers (exec (.write p a data size) s) s p (s.port p) [] .idle s.tmo (some .rejected)) ∧
    (s.cu.line < 2 ∨ 7 < s.cu.line → size + 1 ≤ s.params.cap →
      Answers (exec (.write p a data size) s) s p (s.port p) []
        { s.cu with cur := some (.write p a data size), line := 2 } s.tmo s.resp) ∧
    (s.cu.line = 2 → 0 < (s.port p).txbuf.length →
      Answers (exec (.write p a data size) s) s p { s.port p with txbuf := (s.port p).txbuf.set 0 (addrByte a false) } []
        { s.cu with cur := some (.write p a data size), line := 3, idx := 0 } s.tmo s.resp) ∧
    (s.cu.line = 3 → s.cu.idx < size → 1 + s.cu.idx < (s.port p).txbuf.length →
      Answers (exec (.write p a data size) s) s p
        { s.port p with txbuf := (s.port p).txbuf.set (1 + s.cu.idx) (s.hostRead (data.base + s.cu.idx)) } []
        { s.cu with cur := some (.write p a data size), line := 3, idx := s.cu.idx + 1 } s.tmo s.resp) ∧
    ((s.cu.line = 3 ∧ size ≤ s.cu.idx) ∨ s.cu.line = 4 →
      Answers (exec (.write p a data size) s) s p { s.port p with txlen := size + 1 } []
        { s.cu with cur := some (.write p a data size), line := 5 } s.tmo s.resp) ∧
    (s.cu.line = 5 →
      Answers (exec (.write p a data size) s) s p { s.port p with rxreq := 0 } []
        { s.cu with cur := some (.write p a data size), line := 6 } s.tmo s.resp) ∧
    (s.cu.line = 6 →
      Answers (exec (.write p a data size) s) s p (s.port p) []
        { s.cu with cur := some (.engine p), caller := some (.write p a data size), line := 1 } s.tmo s.resp) ∧
    (s.cu.line = 7 →
      Answers (exec (.write p a data size) s) s p (s.port p) [] .idle s.tmo (some (.done s.cu.result)))

/-- R63: the lines of WRITE before ENGINE, with nothing between them, lay out the transmit buffer: address byte, payload, the old
bytes above; `txlen = size + 1`, `rxreq = 0`; ENGINE comes next. That these lines are `size + 5` steps, and how the command unit stands
after them (ENGINE at its line 1, the index at `size`), is the model's choice (log 13). -/
def Obligations.WriteBuildsTransmitBuffer : Prop :=
  ∀ (p : PortId) (a : Nat) (data : HostArray) (size : Nat) (s : State), p.index < s.params.nports → size ≤ data.len →
    (s.port p).txbuf.length = s.params.cap → size + 1 ≤ s.params.cap → s.cu.line = 0 →
    Answers (runAll (List.replicate (size + 5) (.write p a data size)) s) s p
      { s.port p with
        txbuf :=
          addrByte a false :: (List.range size).map (fun i => s.hostRead (data.base + i)) ++
            (s.port p).txbuf.drop (size + 1)
        txlen := size + 1
        rxreq := 0 }
      []
      { s.cu with cur := some (.engine p), caller := some (.write p a data size), line := 1, idx := size } s.tmo s.resp

/-- R103, line by line. The copy-out of line 7 writes host memory and nothing else. The line numbers are the model's (log 13): any
number that is no later line stands for the first. -/
def Obligations.ReadPerformsItsLines : Prop :=
  ∀ (p : PortId) (a : Nat) (txData : HostArray) (nw : Nat) (out : HostArray) (nr : Nat) (s : State),
    p.index < s.params.nports → nw ≤ txData.len → nr ≤ out.len → nw + 2 ≤ s.params.cap → nr ≤ s.params.cap →
    (s.port p).txbuf.length = s.params.cap → (s.port p).rxbuf.length = s.params.cap →
    (s.cu.line = 0 ∨ 8 < s.cu.line →
      Answers (exec (.read p a txData nw out nr) s) s p (s.port p) []
        { s.cu with cur := some (.read p a txData nw out nr), line := 1 } s.tmo s.resp) ∧
    (s.cu.line = 1 →
      Answers (exec (.read p a txData nw out nr) s) s p
        { s.port p with txbuf := (s.port p).txbuf.set 0 (addrByte a false) } []
        { s.cu with cur := some (.read p a txData nw out nr), line := 2, idx := 0 } s.tmo s.resp) ∧
    (s.cu.line = 2 → s.cu.idx < nw →
      Answers (exec (.read p a txData nw out nr) s) s p
        { s.port p with txbuf := (s.port p).txbuf.set (1 + s.cu.idx) (s.hostRead (txData.base + s.cu.idx)) } []
        { s.cu with cur := some (.read p a txData nw out nr), line := 2, idx := s.cu.idx + 1 } s.tmo s.resp) ∧
    ((s.cu.line = 2 ∧ nw ≤ s.cu.idx) ∨ s.cu.line = 3 →
      Answers (exec (.read p a txData nw out nr) s) s p
        { s.port p with txbuf := (s.port p).txbuf.set (nw + 1) (addrByte a true) } []
        { s.cu with cur := some (.read p a txData nw out nr), line := 4 } s.tmo s.resp) ∧
    (s.cu.line = 4 →
      Answers (exec (.read p a txData nw out nr) s) s p { s.port p with txlen := nw + 1 } []
        { s.cu with cur := some (.read p a txData nw out nr), line := 5 } s.tmo s.resp) ∧
    (s.cu.line = 5 →
      Answers (exec (.read p a txData nw out nr) s) s p { s.port p with rxreq := nr } []
        { s.cu with cur := some (.read p a txData nw out nr), line := 6 } s.tmo s.resp) ∧
    (s.cu.line = 6 →
      Answers (exec (.read p a txData nw out nr) s) s p (s.port p) []
        { s.cu with cur := some (.engine p), caller := some (.read p a txData nw out nr), line := 1 } s.tmo s.resp) ∧
    (s.cu.line = 7 → s.cu.idx < nr → Memory.wf s.hostMem →
      ∃ t b, (s.port p).rxbuf[s.cu.idx]? = some b ∧ exec (.read p a txData nw out nr) s = .next t ∧
        (∀ x, t.hostRead x = if x = out.base + s.cu.idx then b else s.hostRead x) ∧
        (∀ q, t.port q = s.port q) ∧ t.trace = s.trace ∧ t.tmo = s.tmo ∧ t.resp = s.resp ∧ t.params = s.params ∧
        t.requests = s.requests ∧ t.agenda = s.agenda ∧ t.draws = s.draws ∧ t.inject = s.inject ∧ t.body = s.body ∧
        t.cu = { s.cu with cur := some (.read p a txData nw out nr), line := 7, idx := s.cu.idx + 1 }) ∧
    ((s.cu.line = 7 ∧ nr ≤ s.cu.idx) ∨ s.cu.line = 8 →
      Answers (exec (.read p a txData nw out nr) s) s p (s.port p) [] .idle s.tmo (some (.done s.cu.result)))

/-- R64: the lines of READ before ENGINE, with nothing between them, lay out the transmit buffer: address byte, payload, read-address
byte at index `txlen`, the old bytes above. That these lines are `nw + 6` steps, and how the command unit stands after them (ENGINE at
its line 1, the index at `nw`), is the model's choice (log 13). -/
def Obligations.ReadBuildsTransmitBuffer : Prop :=
  ∀ (p : PortId) (a : Nat) (txData : HostArray) (nw : Nat) (out : HostArray) (nr : Nat) (s : State),
    p.index < s.params.nports → nw ≤ txData.len → nr ≤ out.len → nw + 2 ≤ s.params.cap → nr ≤ s.params.cap →
    (s.port p).txbuf.length = s.params.cap → s.cu.line = 0 →
    Answers (runAll (List.replicate (nw + 6) (.read p a txData nw out nr)) s) s p
      { s.port p with
        txbuf :=
          addrByte a false :: (List.range nw).map (fun i => s.hostRead (txData.base + i)) ++ [addrByte a true] ++
            (s.port p).txbuf.drop (nw + 2)
        txlen := nw + 1
        rxreq := nr }
      []
      { s.cu with
        cur := some (.engine p)
        caller := some (.read p a txData nw out nr)
        line := 1
        idx := nw } s.tmo s.resp

/-- R103 lines 7 and 8: after ENGINE, READ copies `rxbuf[0 .. bytesToRead-1]` to the caller's array whatever ENGINE returned, leaves
every other byte of host memory alone, and responds with ENGINE's code. That this is a run of `nr + 1` steps from line 7 with index 0
is the model's choice (log 13). -/
def Obligations.ReadCopiesOutWhateverTheOutcome : Prop :=
  ∀ (p : PortId) (a : Nat) (txData : HostArray) (nw : Nat) (out : HostArray) (nr : Nat) (s : State),
    p.index < s.params.nports → nw ≤ txData.len → nr ≤ out.len → nw + 2 ≤ s.params.cap → nr ≤ s.params.cap →
    (s.port p).rxbuf.length = s.params.cap → s.cu.line = 7 → s.cu.idx = 0 → Memory.wf s.hostMem →
    ∃ t, runAll (List.replicate (nr + 1) (.read p a txData nw out nr)) s = .next t ∧
      (∀ i, i < nr → (s.port p).rxbuf[i]? = some (t.hostRead (out.base + i))) ∧
      (∀ x, x < out.base ∨ out.base + nr ≤ x → t.hostRead x = s.hostRead x) ∧
      t.resp = some (.done s.cu.result) ∧ t.cu = .idle ∧ (∀ q, t.port q = s.port q) ∧ t.trace = s.trace

/-- R66 (c), R53, R103 line 0, R121: what is refused, each by its name: any instruction on a port that does not exist, a WRITE or READ
with a host array shorter than its size, a READ beyond capacity. That the array test comes first is the model's choice (log 11). -/
def Obligations.IllegalOperandsAreRefused : Prop :=
  (∀ (i : Instr) (s : State), s.params.nports ≤ i.port.index → exec i s = .refused (.noSuchPort i.port)) ∧
  (∀ (p : PortId) (a : Nat) (data : HostArray) (size : Nat) (s : State), p.index < s.params.nports → data.len < size →
    exec (.write p a data size) s = .refused .hostArrayTooShort) ∧
  (∀ (p : PortId) (a : Nat) (txData : HostArray) (nw : Nat) (out : HostArray) (nr : Nat) (s : State),
    p.index < s.params.nports →
    (txData.len < nw ∨ out.len < nr → exec (.read p a txData nw out nr) s = .refused .hostArrayTooShort) ∧
    (nw ≤ txData.len → nr ≤ out.len → s.params.cap < nw + 2 ∨ s.params.cap < nr →
      exec (.read p a txData nw out nr) s = .refused .readBeyondCapacity))

/-- R104: the entry of ENGINE. It does not look at the old state. The line numbers are the model's (log 13): any number that is no later
line stands for the first. -/
def Obligations.EngineEntryStartsTheTransaction : Prop :=
  ∀ (p : PortId) (s : State), p.index < s.params.nports →
    (s.cu.line < 2 ∨ 10 < s.cu.line →
      Answers (exec (.engine p) s) s p { s.port p with state := .busy } []
        { s.cu with cur := some (.engine p), line := 2 } s.tmo s.resp) ∧
    (s.cu.line = 2 →
      Answers (exec (.engine p) s) s p (s.port p) [] { s.cu with cur := some (.engine p), line := 3 } 0 s.resp) ∧
    (s.cu.line = 3 →
      Answers (exec (.engine p) s) s p { s.port p with ctl := (s.port p).ctl ||| s.params.flag.start }
        [.regWrite p .conset s.params.flag.start] { s.cu with cur := some (.engine p), line := 4 } s.tmo s.resp)

/-- R105: one iteration of ENGINE's wait, line by line (its lines 1 to 5 are 4 to 8 here). The state is read once an iteration; the
last iteration writes TIME_OUT and touches no register. The line numbers are the model's (log 13). -/
def Obligations.EngineWaitIterates : Prop :=
  ∀ (p : PortId) (s : State), p.index < s.params.nports →
    (s.cu.line = 4 →
      Answers (exec (.engine p) s) s p (s.port p) []
        { s.cu with cur := some (.engine p), line := 5, seen := (s.port p).state } s.tmo s.resp) ∧
    (s.cu.line = 5 → s.cu.seen = .busy ∨ s.cu.seen = .started ∨ s.cu.seen = .restarted →
      Answers (exec (.engine p) s) s p (s.port p) [] { s.cu with cur := some (.engine p), line := 6 } s.tmo s.resp) ∧
    (s.cu.line = 5 → s.cu.seen ≠ .busy → s.cu.seen ≠ .started → s.cu.seen ≠ .restarted →
      Answers (exec (.engine p) s) s p (s.port p) [] { s.cu with cur := some (.engine p), line := 9 } s.tmo s.resp) ∧
    (s.cu.line = 6 →
      Answers (exec (.engine p) s) s p (s.port p) [] { s.cu with cur := some (.engine p), line := 7 } (s.tmo + 1) s.resp) ∧
    (s.cu.line = 7 → s.tmo = s.params.ceiling →
      Answers (exec (.engine p) s) s p (s.port p) [] { s.cu with cur := some (.engine p), line := 8 } s.tmo s.resp) ∧
    (s.cu.line = 7 → s.tmo ≠ s.params.ceiling →
      Answers (exec (.engine p) s) s p (s.port p) [] { s.cu with cur := some (.engine p), line := 4 } s.tmo s.resp) ∧
    (s.cu.line = 8 →
      Answers (exec (.engine p) s) s p { s.port p with state := .timeOut } []
        { s.cu with cur := some (.engine p), line := 9 } s.tmo s.resp)

/-- R106: ENGINE reads the state again and returns it: to the WRITE or READ that called it, or, without a caller, as a response. The line
numbers, and the response without a caller, are the model's (log 13). -/
def Obligations.EngineReturnsTheFinalState : Prop :=
  ∀ (p : PortId) (s : State), p.index < s.params.nports →
    (s.cu.line = 9 →
      Answers (exec (.engine p) s) s p (s.port p) []
        { s.cu with cur := some (.engine p), line := 10, result := (s.port p).state } s.tmo s.resp) ∧
    (∀ c, s.cu.line = 10 → s.cu.caller = some c →
      Answers (exec (.engine p) s) s p (s.port p) []
        { s.cu with cur := some c, caller := none, line := 7, idx := 0 } s.tmo s.resp) ∧
    (s.cu.line = 10 → s.cu.caller = none →
      Answers (exec (.engine p) s) s p (s.port p) [] .idle s.tmo (some (.state s.cu.result)))

/-- R105: if no event step runs, ENGINE's wait makes exactly TIMEOUT_CEILING iterations: before iteration k + 1 the count is k and the
state still BUSY, and the last writes TIME_OUT; the only register write is START's. That the entry is three steps, an iteration four
and the end two, and the line numbers 4 and 10, are the model's choice (log 13). -/
def Obligations.EngineTimesOutAfterExactlyTheCeiling : Prop :=
  ∀ (p : PortId) (s : State), p.index < s.params.nports → s.cu.line < 2 → 1 ≤ s.params.ceiling →
    (∀ k, k < s.params.ceiling →
      ∃ t, runAll (List.replicate (3 + 4 * k) (.engine p)) s = .next t ∧
        t.cu.line = 4 ∧ t.tmo = k ∧ (t.port p).state = .busy) ∧
    ∃ t, runAll (List.replicate (3 + 4 * s.params.ceiling + 2) (.engine p)) s = .next t ∧
      t.cu.line = 10 ∧ t.tmo = s.params.ceiling ∧ t.cu.result = .timeOut ∧
      t.port p = { s.port p with state := .timeOut, ctl := (s.port p).ctl ||| s.params.flag.start } ∧
      t.trace = s.trace ++ [.regWrite p .conset s.params.flag.start] ∧ t.body = s.body ∧ OtherPortsSame p s t ∧ RestSame s t

/-- R108, line by line: START waits while the state is BUSY, bounded under MANUAL_WAIT_BOUNDED, and responds the state. The line numbers
are the model's (log 13): any number that is no later line stands for the first. -/
def Obligations.StartPerformsItsLines : Prop :=
  ∀ (p : PortId) (s : State), p.index < s.params.nports →
    (s.cu.line < 2 ∨ 10 < s.cu.line →
      Answers (exec (.start p) s) s p { s.port p with state := .busy } []
        { s.cu with cur := some (.start p), line := 2 } s.tmo s.resp) ∧
    (s.cu.line = 2 →
      Answers (exec (.start p) s) s p (s.port p) [] { s.cu with cur := some (.start p), line := 3 } 0 s.resp) ∧
    (s.cu.line = 3 →
      Answers (exec (.start p) s) s p { s.port p with ctl := (s.port p).ctl ||| s.params.flag.start }
        [.regWrite p .conset s.params.flag.start] { s.cu with cur := some (.start p), line := 4 } s.tmo s.resp) ∧
    (s.cu.line = 4 →
      Answers (exec (.start p) s) s p (s.port p) []
        { s.cu with cur := some (.start p), line := 5, seen := (s.port p).state } s.tmo s.resp) ∧
    (s.cu.line = 5 → s.cu.seen = .busy →
      Answers (exec (.start p) s) s p (s.port p) [] { s.cu with cur := some (.start p), line := 6 } s.tmo s.resp) ∧
    (s.cu.line = 5 → s.cu.seen ≠ .busy →
      Answers (exec (.start p) s) s p (s.port p) [] { s.cu with cur := some (.start p), line := 10 } s.tmo s.resp) ∧
    (s.cu.line = 6 → s.params.manualWaitBounded = true →
      Answers (exec (.start p) s) s p (s.port p) [] { s.cu with cur := some (.start p), line := 7 } s.tmo s.resp) ∧
    (s.cu.line = 6 → s.params.manualWaitBounded = false →
      Answers (exec (.start p) s) s p (s.port p) [] { s.cu with cur := some (.start p), line := 4 } s.tmo s.resp) ∧
    (s.cu.line = 7 →
      Answers (exec (.start p) s) s p (s.port p) [] { s.cu with cur := some (.start p), line := 8 } (s.tmo + 1) s.resp) ∧
    (s.cu.line = 8 → s.tmo = s.params.ceiling →
      Answers (exec (.start p) s) s p (s.port p) [] { s.cu with cur := some (.start p), line := 9 } s.tmo s.resp) ∧
    (s.cu.line = 8 → s.tmo ≠ s.params.ceiling →
      Answers (exec (.start p) s) s p (s.port p) [] { s.cu with cur := some (.start p), line := 4 } s.tmo s.resp) ∧
    (s.cu.line = 9 →
      Answers (exec (.start p) s) s p { s.port p with state := .timeOut } []
        { s.cu with cur := some (.start p), line := 10 } s.tmo s.resp) ∧
    (s.cu.line = 10 →
      Answers (exec (.start p) s) s p (s.port p) [] .idle s.tmo (some (.state (s.port p).state)))

/-- R109, line by line: STOP asserts STOP, waits on the flag read back through CONSET, responds one bit, and writes no field of the
Port Context on any line. The line numbers are the model's (log 13): any number that is no later line stands for the first. -/
def Obligations.StopPerformsItsLines : Prop :=
  ∀ (p : PortId) (s : State), p.index < s.params.nports →
    (s.cu.line < 2 ∨ 6 < s.cu.line →
      Answers (exec (.stop p) s) s p (s.port p) [] { s.cu with cur := some (.stop p), line := 2 } 0 s.resp) ∧
    (s.cu.line = 2 →
      Answers (exec (.stop p) s) s p { s.port p with ctl := (s.port p).ctl ||| s.params.flag.stop }
        [.regWrite p .conset s.params.flag.stop] { s.cu with cur := some (.stop p), line := 3 } s.tmo s.resp) ∧
    (s.cu.line = 3 → (s.port p).ctl &&& s.params.flag.stop = 0 →
      Answers (exec (.stop p) s) s p (s.port p) [.regRead p .conset (s.port p).ctl] .idle s.tmo (some (.bit true))) ∧
    (s.cu.line = 3 → (s.port p).ctl &&& s.params.flag.stop ≠ 0 →
      Answers (exec (.stop p) s) s p (s.port p) [.regRead p .conset (s.port p).ctl]
        { s.cu with cur := some (.stop p), line := 4 } s.tmo s.resp) ∧
    (s.cu.line = 4 → s.params.manualWaitBounded = true →
      Answers (exec (.stop p) s) s p (s.port p) [] { s.cu with cur := some (.stop p), line := 5 } s.tmo s.resp) ∧
    (s.cu.line = 4 → s.params.manualWaitBounded = false →
      Answers (exec (.stop p) s) s p (s.port p) [] { s.cu with cur := some (.stop p), line := 3 } s.tmo s.resp) ∧
    (s.cu.line = 5 →
      Answers (exec (.stop p) s) s p (s.port p) [] { s.cu with cur := some (.stop p), line := 6 } (s.tmo + 1) s.resp) ∧
    (s.cu.line = 6 → s.tmo = s.params.ceiling →
      Answers (exec (.stop p) s) s p (s.port p) [] .idle s.tmo (some (.bit false))) ∧
    (s.cu.line = 6 → s.tmo ≠ s.params.ceiling →
      Answers (exec (.stop p) s) s p (s.port p) [] { s.cu with cur := some (.stop p), line := 3 } s.tmo s.resp)

/-- R109 with MANUAL_WAIT_BOUNDED: when the bus controller never clears the STOP flag, STOP reads CONSET exactly TIMEOUT_CEILING times
and responds 0, with nothing of the Port Context changed. That this is a run of two steps and four an iteration from line 0, a test that
touches no state being a step too, is the model's choice (log 13). -/
def Obligations.StopGivesUpAfterExactlyTheCeiling : Prop :=
  ∀ (p : PortId) (s : State), p.index < s.params.nports → s.params.wf = true → s.params.manualWaitBounded = true →
    s.cu.line = 0 →
    Answers (runAll (List.replicate (2 + 4 * s.params.ceiling) (.stop p)) s) s p
      { s.port p with ctl := (s.port p).ctl ||| s.params.flag.stop }
      (.regWrite p .conset s.params.flag.stop ::
        List.replicate s.params.ceiling (.regRead p .conset ((s.port p).ctl ||| s.params.flag.stop)))
      .idle s.params.ceiling (some (.bit false))

/-! ### Fetching and stepping -/

/-- A step runs the decoded instruction. An event turn whose interrupt is requested and enabled reads STAT and runs the body its byte
selects (R80, R122); a command turn runs the command in progress, and a request is accepted only by an idle unit (R110); both only
while no callback holds the block (R156). That of several requests waiting the oldest is taken is the model's choice (log 19), and so is
that accepting it and performing its first line are one step (log 13): R110 says neither. An injected action runs by itself (the model's
own, log 3). What the step adds around exec: the turn, the request or the injection is taken away, an accepted request starts from the
idle unit, an event has read STAT. A turn of
another agent is taken in the same way. An agenda that has run out is first filled with the oracle's turns and a command turn, and the
step is that of the filled one, so the clauses above hold of every turn of a run from reset (the model's form of R129, R132 and R166,
log 1). -/
def Obligations.StepRunsTheDecodedInstruction : Prop :=
  (∀ (s : State) (p : PortId) (l : List Turn), s.inject = none → s.body.hung = none → s.agenda = .event p :: l →
    p.index < s.params.nports → (s.port p).irqEn = true → (s.port p).ctl &&& s.params.flag.si ≠ 0 →
    step s = exec (classify s.params.sc p (lowByte (s.port p).stat))
      { s with agenda := l, trace := s.trace ++ [.regRead p .stat (s.port p).stat] }) ∧
  (∀ (s : State) (l : List Turn) (i : Instr), s.inject = none → s.body.hung = none → s.agenda = .command :: l →
    s.cu.cur = some i → step s = exec i { s with agenda := l }) ∧
  (∀ (s : State) (l : List Turn) (r : Request) (m : List Request) (i : Instr), s.inject = none → s.body.hung = none →
    s.agenda = .command :: l → s.cu.cur = none → s.requests = r :: m → decode s.params (.command r) = .ok i →
    step s = exec i { s with agenda := l, requests := m, cu := .idle }) ∧
  (∀ (s : State) (p : PortId) (a : List Access) (i : Instr), s.inject = some (p, a) →
    decode s.params (.access p a) = .ok i → step s = exec i { s with inject := none }) ∧
  (∀ (s : State) (u : Turn) (l : List Turn), s.inject = none → s.agenda = u :: l →
    step s = takeTurn u { s with agenda := l }) ∧
  (∀ s : State, s.inject = none → s.agenda = [] →
    step s = step { s with agenda := Config.oracle s.draws ++ [.command], draws := s.draws + 1 })

/-- A command turn of an idle unit on a request that does not decode is refused by name, and without a request it does nothing
(R66 (c), R110, R151). That of several requests waiting the oldest is taken up is the model's choice (log 19), and the idle turn is the
model's (log 14). -/
def Obligations.CommandTurnRefusesOrIdles : Prop :=
  (∀ (s : State) (l : List Turn) (r : Request) (m : List Request) (e : Reject), s.inject = none → s.body.hung = none →
    s.agenda = .command :: l → s.cu.cur = none → s.requests = r :: m → decode s.params (.command r) = .error e →
    step s = .refused (.undecodable e)) ∧
  (∀ (s : State) (l : List Turn), s.inject = none → s.agenda = .command :: l → s.cu.cur = none → s.requests = [] →
    step s = .next { s with agenda := l })

/-- R122: without SI or without irq_en no event step is enabled, and the event turn changes nothing but the agenda (that such a turn may be
taken at all is the model's choice, log 14). -/
def Obligations.EventNeedsRequestAndEnable : Prop :=
  ∀ (s : State) (p : PortId) (l : List Turn), s.inject = none → s.agenda = .event p :: l →
    (s.port p).irqEn = false ∨ (s.port p).ctl &&& s.params.flag.si = 0 →
    step s = .next { s with agenda := l }

/-- R32, R42, R124, R129: the bus controller's own moves. It presents a code only when SI is clear, and then SI is set; it loads the data
register; it clears STOP and no other flag. The Port Context is not its to change. That a presentation while SI is set does nothing is
the model's form of R129 (log 14). And the host's own moves (R53, R110, R124 (d), R133): it issues a command, which waits behind those
issued before it (the queue is the model's choice, log 19), and it stores a byte of its memory: that byte reads as stored, every other as
before, the memory stays in its canonical form, and nothing else changes. -/
def Obligations.BusControllerAndHostMoves : Prop :=
  (∀ (p : PortId) (w : Word) (s : State), s.params.wf = true →
    ((s.port p).ctl &&& s.params.flag.si = 0 →
      AnswersPort (takeTurn (.raise p w) s) s p
        { s.port p with stat := w, ctl := (s.port p).ctl ||| s.params.flag.si } [] ∧
      ((s.port p).ctl ||| s.params.flag.si) &&& s.params.flag.si ≠ 0) ∧
    ((s.port p).ctl &&& s.params.flag.si ≠ 0 → takeTurn (.raise p w) s = .next s) ∧
    AnswersPort (takeTurn (.load p w) s) s p { s.port p with dat := w } [] ∧
    AnswersPort (takeTurn (.stopSent p) s) s p { s.port p with ctl := (s.port p).ctl &&& ~~~s.params.flag.stop } [] ∧
    ((s.port p).ctl &&& ~~~s.params.flag.stop) &&& s.params.flag.stop = 0 ∧
    ((s.port p).ctl &&& ~~~s.params.flag.stop) &&& s.params.flag.si = (s.port p).ctl &&& s.params.flag.si) ∧
  (∀ (r : Request) (s : State), takeTurn (.host r) s = .next { s with requests := s.requests ++ [r] }) ∧
  ∀ (a : Nat) (b : Byte) (s : State), Memory.wf s.hostMem →
    ∃ t, takeTurn (.hostStore a b) s = .next t ∧ (∀ x, t.hostRead x = if x = a then b else s.hostRead x) ∧
      Memory.wf t.hostMem ∧ t = { s with hostMem := t.hostMem }

/-- R156, U6: a callback that does not return stops the block. From a state in which one has not returned, no step of any agent runs an
event or a line of a command: every Port Context, the command unit, tmo, the response, irq_en and the trace stay as they are, and so
does the callback. Whether a callback returns is a free value (log 15); that the bus controllers' and the host's own turns go on is the
model's reading (log 20). -/
def Obligations.HungCallbackStopsTheBlock : Prop :=
  ∀ (s t : State) (q : PortId), s.body.hung = some q → s.inject = none → step s = .next t →
    t.body = s.body ∧ t.inject = none ∧ t.trace = s.trace ∧ t.cu = s.cu ∧ t.tmo = s.tmo ∧ t.resp = s.resp ∧
      t.params = s.params ∧
      ∀ p, t.port p =
        { s.port p with ctl := (t.port p).ctl, stat := (t.port p).stat, dat := (t.port p).dat }

/-- R23, R24: what reset leaves, for all parameters and all contents of the buffers; the buffers have `CAP` bytes. Nothing is said of
the values the model chose (log 4, log 5). -/
def Obligations.ResetLeavesTheStatedValues : Prop :=
  ∀ (P : Params) (tx rx : PortId → Nat → Byte) (p : PortId),
    ((State.resetWith P tx rx).port p).state = .idle ∧ ((State.resetWith P tx rx).port p).txlen = 0 ∧
    ((State.resetWith P tx rx).port p).txcur = 0 ∧ ((State.resetWith P tx rx).port p).rxreq = 0 ∧
    ((State.resetWith P tx rx).port p).rxcur = 0 ∧ ((State.resetWith P tx rx).port p).cb = none ∧
    ((State.resetWith P tx rx).port p).irqEn = false ∧ (State.resetWith P tx rx).tmo = 0 ∧
    (State.resetWith P tx rx).cu.cur = none ∧ (State.resetWith P tx rx).trace = [] ∧
    (State.resetWith P tx rx).body.hung = none ∧
    ((State.resetWith P tx rx).port p).txbuf.length = P.cap ∧ ((State.resetWith P tx rx).port p).rxbuf.length = P.cap ∧
    (∀ i, i < P.cap → ((State.resetWith P tx rx).port p).txbuf[i]? = some (tx p i) ∧
      ((State.resetWith P tx rx).port p).rxbuf[i]? = some (rx p i)) ∧
    (∃ tx' rx', State.reset = State.resetWith Params.default tx' rx')

/-! ### Encodings -/

/-- 95_test_vectors.md sections 3.2 and 3.8 and the tables of 30_encoding.md, with the default parameters (log 2): a few words decode
to the instruction they stand for, and two are rejected. -/
def Obligations.WordsOfTheSpecDecode : Prop :=
  decode Params.default (.status .p0 0xFFFFFF08) = .ok (.evStart .p0) ∧
  decode Params.default (.status .p1 0x00000048) = .ok (.evAddrNackRead .p1) ∧
  decode Params.default (.status .p0 0x00000058) = .ok (.evRxdataNack .p0) ∧
  decode Params.default (.status .p0 0x000000F8) = .ok (.evUnrecognised .p0 0xF8) ∧
  decode Params.default (.command { header := 0x21, ops := { addr := 0x51, src := ⟨64, 1⟩, srcSize := 1 } }) =
    .ok (.write .p1 0x51 ⟨64, 1⟩ 1) ∧
  decode Params.default (.command { header := 0x60, ops := {} }) = .ok (.getState .p0) ∧
  decode Params.default (.command { header := 0x70, ops := {} }) = .error (.reservedOpcode 7) ∧
  decode Params.default (.command { header := 0x24, ops := {} }) = .error .nonzeroHeaderBits ∧
  decode Params.default (.access .p0 [.write .conclr 0x28]) = .ok (.clearStartSI .p0) ∧
  decode Params.default (.access .p0 [.write .conclr 0x6C]) = .ok (.initClear .p0) ∧
  decode Params.default (.access .p0 [.write .dat 0xA0]) = .ok (.writeData .p0 0xA0)

/-- Encoding and decoding agree for every instruction (R58, R61, R65): whatever the parameters, the code of a well-formed instruction
decodes to it with every operand; only ENGINE has no code. -/
def Obligations.DecodeOfEncodeIsTheInstruction : Prop :=
  ∀ (P : Params) (i : Instr), P.wf = true → i.wf P = true →
    (∃ p, i = .engine p) ∨ ∃ c, encode P i = some c ∧ decode P c = .ok i

/-- The other direction: what a code decodes to is encoded by that code, up to the bits and operands the spec ignores (R67, R65): for a
command, the header is the same and the operands `o` are such that they decode to the same instruction, so that every operand its row
lists agrees. -/
def Obligations.EncodeOfDecodeIsTheCode : Prop :=
  ∀ (P : Params) (c : Code) (i : Instr), P.wf = true → decode P c = .ok i →
    match c with
    | .status p w => encode P i = some (.status p (zext32 (lowByte w)))
    | .command r =>
      ∃ o, encode P i = some (.command { header := r.header, ops := o }) ∧
        decode P (.command { header := r.header, ops := o }) = .ok i
    | .access p l => encode P i = some (.access p l)

/-- R66 (c): a header is a command exactly when its opcode is 0 to 6, bits 3:2 are zero and the port is below NPORTS. -/
def Obligations.HeadersAreCommandsExactlyWhen : Prop :=
  ∀ (P : Params) (h : Byte) (o : Operands), P.wf = true →
    ((∃ i, decode P (.command { header := h, ops := o }) = .ok i) ↔
      (h >>> 4).toNat < 7 ∧ h &&& 0x0C = 0 ∧ (h &&& 0x03).toNat < P.nports)

/-- R59: classify is total; with the eleven codes distinct (R58) it gives the class of the row whose code the byte equals, and
EV_UNRECOGNISED exactly for the bytes that are none of them; with the default values these are 245 of the 256 bytes. -/
def Obligations.ClassifyIsTotalAndExact : Prop :=
  (∀ (c : StatusCodes) (p : PortId) (b : Byte),
    (classify c p b).isEvent = true ∧ (classify c p b).port = p ∧
      (classify c p b = .evUnrecognised p b ↔ b ∉ c.toList)) ∧
  (∀ (c : StatusCodes) (p : PortId), c.toList.Nodup →
    classify c p c.start = .evStart p ∧ classify c p c.rstart = .evRstart p ∧ classify c p c.slawAck = .evSlawAck p ∧
      classify c p c.slawNack = .evAddrNackWrite p ∧ classify c p c.txdataAck = .evTxdataAck p ∧
      classify c p c.txdataNack = .evTxdataNack p ∧ classify c p c.arbLost = .evArbLost p ∧
      classify c p c.slarAck = .evSlarAck p ∧ classify c p c.slarNack = .evAddrNackRead p ∧
      classify c p c.rxdataAck = .evRxdataAck p ∧ classify c p c.rxdataNack = .evRxdataNack p) ∧
  ((List.range 256).filter fun n =>
    classify Params.default.sc .p0 (BitVec.ofNat 8 n) = .evUnrecognised .p0 (BitVec.ofNat 8 n)).length = 245

/-- R62: the address byte is `(a mod 128) * 2 + rw`: the direction in bit 0, the low seven bits of the address above it. -/
def Obligations.AddressBytePacksAddressAndDirection : Prop :=
  ∀ (a : Nat) (rw : Bool), (addrByte a rw).toNat = a % 128 * 2 + rw.toNat

/-! ### The whole machine -/

/-- The invariant holds after reset. -/
def Obligations.ResetSatisfiesTheInvariant : Prop :=
  (∀ (P : Params) (tx rx : PortId → Nat → Byte), P.wf = true → (State.resetWith P tx rx).Inv) ∧ State.reset.Inv

/-- Every step keeps the invariant: legal parameters, buffers of `CAP` bytes, lengths and cursors at most `CAP`, no state that no rule
writes (R13), `tmo` at most the ceiling (R17), a sound command unit, host memory in canonical form. -/
def Obligations.StepKeepsTheInvariant : Prop :=
  ∀ s t : State, s.Inv → step s = .next t → t.Inv

/-- No step changes the parameters, and the trace only grows (R19: it is appended to). -/
def Obligations.StepKeepsParametersAndExtendsTrace : Prop :=
  ∀ s t : State, step s = .next t → t.params = s.params ∧ ∃ l, t.trace = s.trace ++ l

/-- R131: the table of state writes is complete. If a step changes the state register of a port, the step ran an instruction of that
port which, by the table, writes the new state; a TIME_OUT is written only after the iteration read a state to wait on. -/
def Obligations.StateIsWrittenOnlyAsTabled : Prop :=
  ∀ (s t : State) (q : PortId), s.Inv → step s = .next t → (t.port q).state ≠ (s.port q).state →
    ∃ (i : Instr) (s' : State), (∀ r, s'.port r = s.port r) ∧ s'.params = s.params ∧ exec i s' = .next t ∧ i.port = q ∧
      writesState i s' (t.port q).state ∧
      ((t.port q).state = .timeOut →
        s'.cu = s.cu ∧ ((i = .engine q ∧ s'.cu.seen.inflight = true) ∨ (i = .start q ∧ s'.cu.seen = .busy)))

/-- R136: an event step of a port reads and writes that port alone: every other port, the command unit, the response, host memory and
the queues stay, and every access it adds to the trace is of that port; callbacks are invoked as the trace says (R128). -/
def Obligations.EventTouchesOnlyItsPort : Prop :=
  ∀ (i : Instr) (s t : State), i.isEvent = true → exec i s = .next t →
    OtherPortsSame i.port s t ∧ RestSame s t ∧ t.cu = s.cu ∧ t.tmo = s.tmo ∧ t.resp = s.resp ∧
      ∃ l, t.trace = s.trace ++ l ∧ t.body = bodyAfter l s.body ∧ ∀ e ∈ l, e.port = i.port

/-- R136, as non-interference: two states that agree on the parameters and on one port give, for an event of that port, the same
outcome: the same new port and accesses, or the same overrun with the same port and accesses before it, or the same refusal, whatever
the other ports and the command unit hold. What a fault shows is the model's form (log 16). -/
def Obligations.EventDependsOnlyOnItsPort : Prop :=
  ∀ (i : Instr) (s s' : State), i.isEvent = true → s.params = s'.params → s.port i.port = s'.port i.port →
    match exec i s, exec i s' with
    | .next t, .next t' =>
      t.port i.port = t'.port i.port ∧ ∃ l, t.trace = s.trace ++ l ∧ t'.trace = s'.trace ++ l
    | .fault f, .fault f' =>
      ∃ which n t t', f = .bufferOverrun i.port which n t ∧ f' = .bufferOverrun i.port which n t' ∧
        t.port i.port = t'.port i.port ∧ ∃ l, t.trace = s.trace ++ l ∧ t'.trace = s'.trace ++ l
    | .refused r, .refused r' => r = r'
    | _, _ => False

/-- R12, R80: no event reads the state register. Put any state there before: the event does the same, and the register then holds
either what the event wrote or, where it wrote nothing, what was put there; where it faults, it faults as before, with what was put
there (log 16). -/
def Obligations.EventIgnoresTheStateRegister : Prop :=
  ∀ (i : Instr) (S : TxState) (s : State), i.isEvent = true →
    match exec i s with
    | .next t =>
      exec i (putState i.port S s) = .next t ∨
        (exec i (putState i.port S s) = .next (putState i.port S t) ∧ (t.port i.port).state = (s.port i.port).state)
    | .fault f =>
      ∃ which n t, f = .bufferOverrun i.port which n t ∧
        exec i (putState i.port S s) = .fault (.bufferOverrun i.port which n (putState i.port S t))
    | .refused r => exec i (putState i.port S s) = .refused r

/-- No step clears irq_en of any port: the spec's own inference in R54, "No rule clears `irq_en[p]`: once a port is initialised its
interrupt stays enabled [derived: no rule other than R100 names `irq_en`]". A step that sets it has performed IrqEnable for that port
(R54: only INIT does). -/
def Obligations.InterruptEnableIsOnlySetByInit : Prop :=
  ∀ (s t : State) (q : PortId), step s = .next t →
    ((s.port q).irqEn = true → (t.port q).irqEn = true) ∧
    ((s.port q).irqEn = false → (t.port q).irqEn = true →
      ∃ s', exec (.init q) s' = .next t ∧ s'.cu.line = 5 ∧ t.trace = s.trace ++ [.irqEn q])

/-- R128: the callback fires exactly when an event writes a terminal state, once, after every register write of the event, with the
registered handle; no other instruction fires it. -/
def Obligations.CallbackFiresExactlyAtTheEnd : Prop :=
  ∀ (i : Instr) (s t : State), exec i s = .next t →
    ∃ l, (∀ q h, .cb q h ∉ l) ∧
      ((i.isEvent = true ∧ (∃ S, S.terminal = true ∧ writesState i s S) ∧
          t.trace = s.trace ++ l ++ cbEntries i.port (s.port i.port) ∧ (t.port i.port).state.terminal = true) ∨
        (¬(i.isEvent = true ∧ ∃ S, S.terminal = true ∧ writesState i s S) ∧ t.trace = s.trace ++ l))

/-- R61: whatever a step does, the words it writes to CONSET, CONCLR and DAT are those of the table, and the only other register
writes are the two divisor writes of INIT. -/
def Obligations.OnlyTheListedWordsAreWritten : Prop :=
  ∀ s t : State, step s = .next t →
    ∃ l, t.trace = s.trace ++ l ∧ ∀ p r w, .regWrite p r w ∈ l → wordListed s.params r w

/-- R80: every event clears SI exactly once, with the last of its register writes, so that SI is clear when it ends. -/
def Obligations.EventClearsSIOnceAndLast : Prop :=
  ∀ (i : Instr) (s t : State), s.params.wf = true → i.isEvent = true → exec i s = .next t →
    (t.port i.port).ctl &&& s.params.flag.si = 0 ∧
    ∃ l v w, t.trace = s.trace ++ l ∧ regWrites l = v ++ [(i.port, .conclr, w)] ∧ w &&& s.params.flag.si ≠ 0 ∧
      ∀ q u, (q, .conclr, u) ∈ v → u &&& s.params.flag.si = 0

/-- The single-byte policy (R90): while one byte is requested, no event of the port asserts ACK. -/
def Obligations.SingleByteReadNeverAcknowledges : Prop :=
  ∀ (i : Instr) (s t : State), s.params.wf = true → i.isEvent = true → (s.port i.port).rxreq = 1 → exec i s = .next t →
    (t.port i.port).rxreq = 1 ∧
      ∃ l, t.trace = s.trace ++ l ∧ s.params.flag.ack ∉ wordsTo i.port .conset l

/-- In a state of the invariant only an event can fault (R45): a step that faults has run an event of the port the fault names, whose
interrupt was enabled and requested, and the index is `CAP` exactly: `txbuf[txlen]` with `txlen = CAP`, or a byte received with
`rxcur = CAP`. Before the access STAT has been read (R80) and, of the two, `rxcur` reset (R82) or the data register read (R91, R92); no
register has been written and no other port touched (the fault's form: log 16). -/
def Obligations.OnlyEventsFaultAndOnlyAtCapacity : Prop :=
  ∀ (s : State) (f : Fault), s.Inv → step s = .fault f →
    ∃ p which t, f = .bufferOverrun p which s.params.cap t ∧ OtherPortsSame p s t ∧ (s.port p).irqEn = true ∧
      (s.port p).ctl &&& s.params.flag.si ≠ 0 ∧
      (∃ i s', i.isEvent = true ∧ i.port = p ∧ (∀ q, s'.port q = s.port q) ∧ s'.params = s.params ∧ exec i s' = .fault f) ∧
      ((which = .tx ∧ (s.port p).txlen = s.params.cap ∧ t.port p = { s.port p with rxcur := 0 } ∧
          t.trace = s.trace ++ [.regRead p .stat (s.port p).stat]) ∨
        (which = .rx ∧ (s.port p).rxcur = s.params.cap ∧ t.port p = s.port p ∧
          t.trace = s.trace ++ [.regRead p .stat (s.port p).stat, .regRead p .dat (s.port p).dat]))

/-- R47, R49: every register access of the trace goes to the address `REG` gives its register; with legal parameters that address is
word-aligned, and two accesses go to one address only if they are of one register of one port. -/
def Obligations.RegisterAddressesAlignedAndDistinct : Prop :=
  ∀ (P : Params), P.wf = true →
    (∀ (p : PortId) (r : ReadReg) (w : Word), (TraceEntry.regRead p r w).address P = some (P.addrOf p r.reg)) ∧
    (∀ (p : PortId) (r : WriteReg) (w : Word), (TraceEntry.regWrite p r w).address P = some (P.addrOf p r.reg)) ∧
    (∀ (e : TraceEntry) (a : Word), e.address P = some a → a &&& 3 = 0) ∧
    ∀ (p q : PortId) (r r' : Reg), P.addrOf p r = P.addrOf q r' → p = q ∧ r = r'

/-- R166 (1), R105, R108, R109: every command ends. From a state of the invariant with a command in progress and MANUAL_WAIT_BOUNDED, after
some number of steps the unit has responded and is idle, whatever turns the agenda holds and the oracle gives, unless before that the
machine has stopped with a fault or a refusal, or a callback has not returned (R156). That the command unit is never passed over for
ever is the model's form of the fairness R166 asks for (log 1). -/
def Obligations.EveryCommandEnds : Prop :=
  ∀ s : State, s.Inv → s.params.manualWaitBounded = true → s.cu.cur ≠ none →
    ∃ n, match runSteps n s with
      | .next t => (t.cu.cur = none ∧ t.resp ≠ none) ∨ t.body.hung ≠ none
      | .fault _ => True
      | .refused _ => True

/-! ### Whole transactions -/

/-- The property of WRITE (R102): for every `size + 1 <= CAP`, with the address and every byte acknowledged, the bytes placed on the bus
are `[(addr<<1), data[0..size)]` in order, and the response is `some(OK)`. The run is WRITE's packing, ENGINE's entry, the events
in protocol order, and the end of the wait; a callback, if one is registered, has returned in it. The counts of steps (`size + 5`, 3 and
4) are the model's choice (log 13). -/
def Obligations.WriteSendsAddressAndDataInOrder : Prop :=
  ∀ (p : PortId) (a : Nat) (data : HostArray) (size : Nat) (s : State), p.index < s.params.nports → size ≤ data.len →
    (s.port p).txbuf.length = s.params.cap → size + 1 ≤ s.params.cap → s.cu.line = 0 →
    ∃ t, runAll
        (List.replicate (size + 5) (.write p a data size) ++ List.replicate 3 (.engine p) ++
          [.evStart p, .evSlawAck p] ++ List.replicate size (.evTxdataAck p) ++ List.replicate 4 (.engine p) ++
          [.write p a data size]) s = .next t ∧
      t.resp = some (.done .ok) ∧ t.cu = .idle ∧ (t.port p).state = .ok ∧ (t.port p).txcur = (t.port p).txlen ∧
      ∃ l, t.trace = s.trace ++ l ∧
        wordsTo p .dat l =
          (addrByte a false :: (List.range size).map fun i => s.hostRead (data.base + i)).map zext32

/-- The read phase of a READ (R82, R90, R91, R92): after the write phase, with the read address acknowledged and `rxreq` bytes arriving
in protocol order, the read-address byte is the only byte sent, the received bytes lie in the receive buffer in order, ACK is
asserted for all but the last byte and NACK once, and the transaction ends with OK. -/
def Obligations.ReadPhaseReceivesBytesInOrder : Prop :=
  ∀ (p : PortId) (bs : List Byte) (b : Byte) (s : State), s.params.wf = true → p.index < s.params.nports →
    (s.port p).rxbuf.length = s.params.cap → (s.port p).rxreq ≤ s.params.cap →
    s.body.hung = none → (s.port p).txbuf[(s.port p).txlen]? = some b → (s.port p).irqEn = true → (s.port p).ctl &&& s.params.flag.si = 0 →
    bs ≠ [] → bs.length = (s.port p).rxreq →
    ∃ t, runTurns
        (busEvent p s.params.sc.rstart ++ busEvent p s.params.sc.slarAck ++ byteArrivals p s.params.sc bs) s = .next t ∧
      (t.port p).rxbuf.take bs.length = bs ∧ (t.port p).rxcur = (t.port p).rxreq ∧ (t.port p).state = .ok ∧
      ∃ l, t.trace = s.trace ++ l ∧ wordsTo p .dat l = [zext32 b] ∧
        (wordsTo p .conset l).count s.params.flag.ack = bs.length - 1 ∧
        (wordsTo p .conclr l).count s.params.flag.ack = 1
end

