-- ==== Sys2Proof/Laws/Memory.lean ====
section
/-! SUPPORT. Host memory: every operation keeps the canonical form, a read after a write. -/

namespace Sys2Proof.Machine

theorem memory_wf_nil : Memory.wf [] := ⟨List.Pairwise.nil, by simp⟩

theorem memory_wf_tail {c : Host.Cell} {m : List Host.Cell} (h : Memory.wf (c :: m)) : Memory.wf m :=
  ⟨(List.pairwise_cons.1 h.1).2, fun d hd => h.2 d (List.mem_cons_of_mem _ hd)⟩

/-- A cell before a memory of higher addresses keeps the canonical form. -/
theorem memory_wf_cons {a : Nat} {b : Byte} {m : List Host.Cell} (hm : Memory.wf m) (ha : ∀ c ∈ m, a < c.1) :
    Memory.wf (Memory.cons a b m) := by
  unfold Memory.cons
  split
  · exact hm
  · rename_i hb
    exact ⟨List.pairwise_cons.2 ⟨ha, hm.1⟩, by
      intro c hc
      rcases List.mem_cons.1 hc with rfl | hc
      · exact hb
      · exact hm.2 c hc⟩

theorem mem_memory_cons {a : Nat} {b : Byte} {m : List Host.Cell} {c : Host.Cell} (h : c ∈ Memory.cons a b m) :
    c = (a, b) ∨ c ∈ m := by
  unfold Memory.cons at h
  split at h
  · exact .inr h
  · exact List.mem_cons.1 h

/-- Every cell after a write is the one written or was there before. -/
theorem mem_memory_write {m : List Host.Cell} {a : Nat} {b : Byte} {c : Host.Cell} (h : c ∈ Memory.write m a b) :
    c = (a, b) ∨ c ∈ m := by
  induction m with
  | nil => simpa [Memory.write] using mem_memory_cons h
  | cons d m ih =>
    unfold Memory.write at h
    split at h
    · exact mem_memory_cons h
    · split at h
      · exact (mem_memory_cons h).imp_right (List.mem_cons_of_mem _)
      · rcases List.mem_cons.1 h with rfl | h
        · exact .inr (List.mem_cons_self ..)
        · exact (ih h).imp_right (List.mem_cons_of_mem _)

/-- A write keeps the canonical form. -/
theorem memory_write_wf {m : List Host.Cell} (h : Memory.wf m) (a : Nat) (b : Byte) : Memory.wf (Memory.write m a b) := by
  induction m with
  | nil => exact memory_wf_cons h (by simp)
  | cons c m ih =>
    have hlt := (List.pairwise_cons.1 h.1).1
    unfold Memory.write
    split
    · rename_i ha
      refine memory_wf_cons h fun d hd => ?_
      rcases List.mem_cons.1 hd with rfl | hd
      · exact ha
      · exact lt_trans ha (hlt d hd)
    · split
      · rename_i _ ha
        exact memory_wf_cons (memory_wf_tail h) fun d hd => ha ▸ hlt d hd
      · rename_i h1 h2
        have hm := ih (memory_wf_tail h)
        refine ⟨List.pairwise_cons.2 ⟨fun d hd => ?_, hm.1⟩, fun d hd => ?_⟩
        · rcases mem_memory_write hd with rfl | hd
          · exact lt_of_le_of_ne (not_lt.1 h1) (Ne.symm h2)
          · exact hlt d hd
        · rcases List.mem_cons.1 hd with rfl | hd
          · exact h.2 _ (List.mem_cons_self ..)
          · exact hm.2 d hd

/-- An address below every listed one reads as unlisted. -/
theorem memory_read_low {m : List Host.Cell} {a : Nat} (h : ∀ c ∈ m, a < c.1) : Memory.read m a = Memory.unlisted := by
  induction m with
  | nil => rfl
  | cons c m ih =>
    have hc := h c (List.mem_cons_self ..)
    rw [Memory.read, if_neg (by omega)]
    exact ih fun d hd => h d (List.mem_cons_of_mem _ hd)

theorem memory_read_cons {a x : Nat} {b : Byte} {m : List Host.Cell} (ha : ∀ c ∈ m, a < c.1) :
    Memory.read (Memory.cons a b m) x = if x = a then b else Memory.read m x := by
  unfold Memory.cons
  split
  · rename_i hb
    split
    · rename_i hx
      rw [hx, hb, memory_read_low ha]
    · rfl
  · by_cases hx : x = a
    · simp [Memory.read, hx]
    · simp [Memory.read, hx, Ne.symm hx]

/-- A read after a write: the byte written at its address, the byte from before at every other. -/
theorem memory_read_write {m : List Host.Cell} (h : Memory.wf m) (a x : Nat) (b : Byte) :
    Memory.read (Memory.write m a b) x = if x = a then b else Memory.read m x := by
  induction m with
  | nil => exact memory_read_cons (by simp)
  | cons c m ih =>
    have hlt := (List.pairwise_cons.1 h.1).1
    unfold Memory.write
    split
    · rename_i ha
      refine memory_read_cons fun d hd => ?_
      rcases List.mem_cons.1 hd with rfl | hd
      · exact ha
      · exact lt_trans ha (hlt d hd)
    · split
      · rename_i _ ha
        rw [memory_read_cons fun d hd => ha ▸ hlt d hd]
        by_cases hx : x = a
        · simp [hx]
        · have hc : ¬ c.1 = x := fun hc => hx (by rw [← hc, ha])
          rw [if_neg hx, if_neg hx, Memory.read, if_neg hc]
      · rename_i h1 h2
        by_cases hc : c.1 = x
        · rw [Memory.read, if_pos hc, Memory.read, if_pos hc, if_neg (by rw [← hc]; exact Ne.symm h2)]
        · rw [Memory.read, if_neg hc, Memory.read, if_neg hc, ih (memory_wf_tail h)]

theorem hostWrite_wf {s : State} (h : Memory.wf s.hostMem) (a : Nat) (b : Byte) : Memory.wf (s.hostWrite a b).hostMem :=
  memory_write_wf h a b

theorem hostRead_hostWrite {s : State} (h : Memory.wf s.hostMem) (a x : Nat) (b : Byte) :
    (s.hostWrite a b).hostRead x = if x = a then b else s.hostRead x :=
  memory_read_write h a x b

theorem reset_memory_wf : Memory.wf State.reset.hostMem := memory_wf_nil

end Sys2Proof.Machine
end

