-- ==== Sys2Proof/Laws/State.lean ====
section
/-! SUPPORT. Small lemmas about State: what each update leaves of each field. Later proofs cite these and do not unfold a record
update. -/

namespace Sys2Proof.Machine

variable (s : State) (p q : PortId) (x : Port) (f : Port → Port) (e : TraceEntry) (c : Instr) (n a : Nat) (b : Byte)

/-! ### setPort -/

@[simp] theorem setPort_params : (s.setPort p x).params = s.params := by cases p <;> rfl
@[simp] theorem setPort_cu : (s.setPort p x).cu = s.cu := by cases p <;> rfl
@[simp] theorem setPort_tmo : (s.setPort p x).tmo = s.tmo := by cases p <;> rfl
@[simp] theorem setPort_resp : (s.setPort p x).resp = s.resp := by cases p <;> rfl
@[simp] theorem setPort_hostMem : (s.setPort p x).hostMem = s.hostMem := by cases p <;> rfl
@[simp] theorem setPort_trace : (s.setPort p x).trace = s.trace := by cases p <;> rfl
@[simp] theorem setPort_requests : (s.setPort p x).requests = s.requests := by cases p <;> rfl
@[simp] theorem setPort_agenda : (s.setPort p x).agenda = s.agenda := by cases p <;> rfl
@[simp] theorem setPort_draws : (s.setPort p x).draws = s.draws := by cases p <;> rfl
@[simp] theorem setPort_inject : (s.setPort p x).inject = s.inject := by cases p <;> rfl
@[simp] theorem setPort_body : (s.setPort p x).body = s.body := by cases p <;> rfl
@[simp] theorem setPort_port_same : (s.setPort p x).port p = x := by cases p <;> rfl
@[simp] theorem setPort_port_ne (h : q ≠ p) : (s.setPort p x).port q = s.port q := by
  cases p <;> cases q <;> first | rfl | exact absurd rfl h
@[simp] theorem setPort_self : s.setPort p (s.port p) = s := by cases p <;> rfl
@[simp] theorem setPort_setPort (y : Port) : (s.setPort p x).setPort p y = s.setPort p y := by cases p <;> rfl

theorem setPort_port : (s.setPort p x).port q = if q = p then x else s.port q := by
  cases p <;> cases q <;> rfl

/-! ### modPort -/

@[simp] theorem modPort_params : (s.modPort p f).params = s.params := setPort_params ..
@[simp] theorem modPort_cu : (s.modPort p f).cu = s.cu := setPort_cu ..
@[simp] theorem modPort_tmo : (s.modPort p f).tmo = s.tmo := setPort_tmo ..
@[simp] theorem modPort_resp : (s.modPort p f).resp = s.resp := setPort_resp ..
@[simp] theorem modPort_hostMem : (s.modPort p f).hostMem = s.hostMem := setPort_hostMem ..
@[simp] theorem modPort_trace : (s.modPort p f).trace = s.trace := setPort_trace ..
@[simp] theorem modPort_requests : (s.modPort p f).requests = s.requests := setPort_requests ..
@[simp] theorem modPort_agenda : (s.modPort p f).agenda = s.agenda := setPort_agenda ..
@[simp] theorem modPort_draws : (s.modPort p f).draws = s.draws := setPort_draws ..
@[simp] theorem modPort_inject : (s.modPort p f).inject = s.inject := setPort_inject ..
@[simp] theorem modPort_body : (s.modPort p f).body = s.body := setPort_body ..
@[simp] theorem modPort_port_same : (s.modPort p f).port p = f (s.port p) := setPort_port_same ..
@[simp] theorem modPort_port_ne (h : q ≠ p) : (s.modPort p f).port q = s.port q := setPort_port_ne _ _ _ _ h
@[simp] theorem modPort_modPort (g : Port → Port) : (s.modPort p f).modPort p g = s.modPort p fun y => g (f y) := by
  simp [State.modPort]

theorem modPort_port : (s.modPort p f).port q = if q = p then f (s.port p) else s.port q := setPort_port ..

/-! ### log -/

@[simp] theorem log_params : (s.log e).params = s.params := rfl
@[simp] theorem log_port : (s.log e).port p = s.port p := by cases p <;> rfl
@[simp] theorem log_cu : (s.log e).cu = s.cu := rfl
@[simp] theorem log_tmo : (s.log e).tmo = s.tmo := rfl
@[simp] theorem log_resp : (s.log e).resp = s.resp := rfl
@[simp] theorem log_hostMem : (s.log e).hostMem = s.hostMem := rfl
@[simp] theorem log_trace : (s.log e).trace = s.trace ++ [e] := rfl
@[simp] theorem log_requests : (s.log e).requests = s.requests := rfl
@[simp] theorem log_agenda : (s.log e).agenda = s.agenda := rfl
@[simp] theorem log_draws : (s.log e).draws = s.draws := rfl
@[simp] theorem log_inject : (s.log e).inject = s.inject := rfl
@[simp] theorem log_body : (s.log e).body = s.body := rfl

/-! ### Reading a port through an update of another field -/

@[simp] theorem cu_port (u : CommandUnit) : ({ s with cu := u } : State).port p = s.port p := by cases p <;> rfl
@[simp] theorem tmo_port (m : Nat) : ({ s with tmo := m } : State).port p = s.port p := by cases p <;> rfl
@[simp] theorem respCu_port (u : CommandUnit) (r : Option Response) :
    ({ s with resp := r, cu := u } : State).port p = s.port p := by cases p <;> rfl
@[simp] theorem hostMem_port (m : List Host.Cell) : ({ s with hostMem := m } : State).port p = s.port p := by
  cases p <;> rfl
@[simp] theorem requests_port (l : List Request) : ({ s with requests := l } : State).port p = s.port p := by
  cases p <;> rfl
@[simp] theorem requestsCu_port (l : List Request) (u : CommandUnit) :
    ({ s with requests := l, cu := u } : State).port p = s.port p := by cases p <;> rfl
@[simp] theorem agenda_port (l : List Turn) : ({ s with agenda := l } : State).port p = s.port p := by cases p <;> rfl
@[simp] theorem draws_port (m : Nat) : ({ s with draws := m } : State).port p = s.port p := by cases p <;> rfl
@[simp] theorem body_port (c : CallbackBody) : ({ s with body := c } : State).port p = s.port p := by cases p <;> rfl
@[simp] theorem inject_port (o : Option (PortId × List Access)) :
    ({ s with inject := o } : State).port p = s.port p := by cases p <;> rfl

/-! ### Host memory -/

@[simp] theorem hostWrite_params : (s.hostWrite a b).params = s.params := rfl
@[simp] theorem hostWrite_port : (s.hostWrite a b).port p = s.port p := by cases p <;> rfl
@[simp] theorem hostWrite_cu : (s.hostWrite a b).cu = s.cu := rfl
@[simp] theorem hostWrite_tmo : (s.hostWrite a b).tmo = s.tmo := rfl
@[simp] theorem hostWrite_resp : (s.hostWrite a b).resp = s.resp := rfl
@[simp] theorem hostWrite_trace : (s.hostWrite a b).trace = s.trace := rfl
@[simp] theorem hostWrite_requests : (s.hostWrite a b).requests = s.requests := rfl
@[simp] theorem hostWrite_agenda : (s.hostWrite a b).agenda = s.agenda := rfl
@[simp] theorem hostWrite_draws : (s.hostWrite a b).draws = s.draws := rfl
@[simp] theorem hostWrite_inject : (s.hostWrite a b).inject = s.inject := rfl
@[simp] theorem hostWrite_body : (s.hostWrite a b).body = s.body := rfl
@[simp] theorem hostWrite_hostMem : (s.hostWrite a b).hostMem = Memory.write s.hostMem a b := rfl

/-! ### goto, goFor, nextByte, callEngine, respond -/

@[simp] theorem goto_cu : (goto c n s).cu = { s.cu with cur := some c, line := n } := rfl
@[simp] theorem goto_port : (goto c n s).port p = s.port p := by cases p <;> rfl
@[simp] theorem goto_params : (goto c n s).params = s.params := rfl
@[simp] theorem goto_tmo : (goto c n s).tmo = s.tmo := rfl
@[simp] theorem goto_resp : (goto c n s).resp = s.resp := rfl
@[simp] theorem goto_hostMem : (goto c n s).hostMem = s.hostMem := rfl
@[simp] theorem goto_trace : (goto c n s).trace = s.trace := rfl
@[simp] theorem goto_requests : (goto c n s).requests = s.requests := rfl
@[simp] theorem goto_agenda : (goto c n s).agenda = s.agenda := rfl
@[simp] theorem goto_draws : (goto c n s).draws = s.draws := rfl
@[simp] theorem goto_inject : (goto c n s).inject = s.inject := rfl
@[simp] theorem goto_body : (goto c n s).body = s.body := rfl

@[simp] theorem goFor_cu : (goFor c n s).cu = { s.cu with cur := some c, line := n, idx := 0 } := rfl
@[simp] theorem goFor_port : (goFor c n s).port p = s.port p := by cases p <;> rfl
@[simp] theorem goFor_params : (goFor c n s).params = s.params := rfl
@[simp] theorem goFor_tmo : (goFor c n s).tmo = s.tmo := rfl
@[simp] theorem goFor_resp : (goFor c n s).resp = s.resp := rfl
@[simp] theorem goFor_hostMem : (goFor c n s).hostMem = s.hostMem := rfl
@[simp] theorem goFor_trace : (goFor c n s).trace = s.trace := rfl
@[simp] theorem goFor_requests : (goFor c n s).requests = s.requests := rfl
@[simp] theorem goFor_agenda : (goFor c n s).agenda = s.agenda := rfl
@[simp] theorem goFor_draws : (goFor c n s).draws = s.draws := rfl
@[simp] theorem goFor_inject : (goFor c n s).inject = s.inject := rfl
@[simp] theorem goFor_body : (goFor c n s).body = s.body := rfl

@[simp] theorem nextByte_cu : (nextByte c n s).cu = { s.cu with cur := some c, line := n, idx := s.cu.idx + 1 } := rfl
@[simp] theorem nextByte_port : (nextByte c n s).port p = s.port p := by cases p <;> rfl
@[simp] theorem nextByte_params : (nextByte c n s).params = s.params := rfl
@[simp] theorem nextByte_tmo : (nextByte c n s).tmo = s.tmo := rfl
@[simp] theorem nextByte_resp : (nextByte c n s).resp = s.resp := rfl
@[simp] theorem nextByte_hostMem : (nextByte c n s).hostMem = s.hostMem := rfl
@[simp] theorem nextByte_trace : (nextByte c n s).trace = s.trace := rfl
@[simp] theorem nextByte_requests : (nextByte c n s).requests = s.requests := rfl
@[simp] theorem nextByte_agenda : (nextByte c n s).agenda = s.agenda := rfl
@[simp] theorem nextByte_draws : (nextByte c n s).draws = s.draws := rfl
@[simp] theorem nextByte_inject : (nextByte c n s).inject = s.inject := rfl
@[simp] theorem nextByte_body : (nextByte c n s).body = s.body := rfl

@[simp] theorem callEngine_cu :
    (callEngine c s).cu = { s.cu with cur := some (.engine c.port), caller := some c, line := 1 } := rfl
@[simp] theorem callEngine_port : (callEngine c s).port p = s.port p := by cases p <;> rfl
@[simp] theorem callEngine_params : (callEngine c s).params = s.params := rfl
@[simp] theorem callEngine_tmo : (callEngine c s).tmo = s.tmo := rfl
@[simp] theorem callEngine_resp : (callEngine c s).resp = s.resp := rfl
@[simp] theorem callEngine_hostMem : (callEngine c s).hostMem = s.hostMem := rfl
@[simp] theorem callEngine_trace : (callEngine c s).trace = s.trace := rfl
@[simp] theorem callEngine_requests : (callEngine c s).requests = s.requests := rfl
@[simp] theorem callEngine_agenda : (callEngine c s).agenda = s.agenda := rfl
@[simp] theorem callEngine_draws : (callEngine c s).draws = s.draws := rfl
@[simp] theorem callEngine_inject : (callEngine c s).inject = s.inject := rfl
@[simp] theorem callEngine_body : (callEngine c s).body = s.body := rfl

variable (r : Response)

@[simp] theorem respond_cu : (respond r s).cu = .idle := rfl
@[simp] theorem respond_resp : (respond r s).resp = some r := rfl
@[simp] theorem respond_port : (respond r s).port p = s.port p := by cases p <;> rfl
@[simp] theorem respond_params : (respond r s).params = s.params := rfl
@[simp] theorem respond_tmo : (respond r s).tmo = s.tmo := rfl
@[simp] theorem respond_hostMem : (respond r s).hostMem = s.hostMem := rfl
@[simp] theorem respond_trace : (respond r s).trace = s.trace := rfl
@[simp] theorem respond_requests : (respond r s).requests = s.requests := rfl
@[simp] theorem respond_agenda : (respond r s).agenda = s.agenda := rfl
@[simp] theorem respond_draws : (respond r s).draws = s.draws := rfl
@[simp] theorem respond_inject : (respond r s).inject = s.inject := rfl
@[simp] theorem respond_body : (respond r s).body = s.body := rfl

/-! ### tmoReset, tmoTick, seeState -/

@[simp] theorem tmoReset_tmo : (tmoReset s).tmo = 0 := rfl
@[simp] theorem tmoReset_port : (tmoReset s).port p = s.port p := by cases p <;> rfl
@[simp] theorem tmoReset_params : (tmoReset s).params = s.params := rfl
@[simp] theorem tmoReset_cu : (tmoReset s).cu = s.cu := rfl
@[simp] theorem tmoReset_resp : (tmoReset s).resp = s.resp := rfl
@[simp] theorem tmoReset_hostMem : (tmoReset s).hostMem = s.hostMem := rfl
@[simp] theorem tmoReset_trace : (tmoReset s).trace = s.trace := rfl
@[simp] theorem tmoReset_requests : (tmoReset s).requests = s.requests := rfl
@[simp] theorem tmoReset_agenda : (tmoReset s).agenda = s.agenda := rfl
@[simp] theorem tmoReset_draws : (tmoReset s).draws = s.draws := rfl
@[simp] theorem tmoReset_inject : (tmoReset s).inject = s.inject := rfl
@[simp] theorem tmoReset_body : (tmoReset s).body = s.body := rfl

@[simp] theorem tmoTick_tmo : (tmoTick s).tmo = s.tmo + 1 := rfl
@[simp] theorem tmoTick_port : (tmoTick s).port p = s.port p := by cases p <;> rfl
@[simp] theorem tmoTick_params : (tmoTick s).params = s.params := rfl
@[simp] theorem tmoTick_cu : (tmoTick s).cu = s.cu := rfl
@[simp] theorem tmoTick_resp : (tmoTick s).resp = s.resp := rfl
@[simp] theorem tmoTick_hostMem : (tmoTick s).hostMem = s.hostMem := rfl
@[simp] theorem tmoTick_trace : (tmoTick s).trace = s.trace := rfl
@[simp] theorem tmoTick_requests : (tmoTick s).requests = s.requests := rfl
@[simp] theorem tmoTick_agenda : (tmoTick s).agenda = s.agenda := rfl
@[simp] theorem tmoTick_draws : (tmoTick s).draws = s.draws := rfl
@[simp] theorem tmoTick_inject : (tmoTick s).inject = s.inject := rfl
@[simp] theorem tmoTick_body : (tmoTick s).body = s.body := rfl

@[simp] theorem seeState_cu : (seeState p s).cu = { s.cu with seen := (s.port p).state } := rfl
@[simp] theorem seeState_port : (seeState p s).port q = s.port q := by cases q <;> rfl
@[simp] theorem seeState_params : (seeState p s).params = s.params := rfl
@[simp] theorem seeState_tmo : (seeState p s).tmo = s.tmo := rfl
@[simp] theorem seeState_resp : (seeState p s).resp = s.resp := rfl
@[simp] theorem seeState_hostMem : (seeState p s).hostMem = s.hostMem := rfl
@[simp] theorem seeState_trace : (seeState p s).trace = s.trace := rfl
@[simp] theorem seeState_requests : (seeState p s).requests = s.requests := rfl
@[simp] theorem seeState_agenda : (seeState p s).agenda = s.agenda := rfl
@[simp] theorem seeState_draws : (seeState p s).draws = s.draws := rfl
@[simp] theorem seeState_inject : (seeState p s).inject = s.inject := rfl
@[simp] theorem seeState_body : (seeState p s).body = s.body := rfl

end Sys2Proof.Machine
end

