-- ==== Sys2Proof/Laws/Ops.lean ====
section
/-! SUPPORT. What each shared operation can do, said once: the fields it leaves, the port and trace it gives, and when it answers a next
state. Proofs about meanings cite these. -/

namespace Sys2Proof.Machine

variable (s t : State) (p q : PortId) (r : WriteReg) (rr : ReadReg) (w : Word) (S : TxState) (b : Byte)

/-! ### regWrite -/

@[simp] theorem regWrite_params : (regWrite p r w s).params = s.params := by simp [regWrite]
@[simp] theorem regWrite_cu : (regWrite p r w s).cu = s.cu := by simp [regWrite]
@[simp] theorem regWrite_tmo : (regWrite p r w s).tmo = s.tmo := by simp [regWrite]
@[simp] theorem regWrite_resp : (regWrite p r w s).resp = s.resp := by simp [regWrite]
@[simp] theorem regWrite_hostMem : (regWrite p r w s).hostMem = s.hostMem := by simp [regWrite]
@[simp] theorem regWrite_requests : (regWrite p r w s).requests = s.requests := by simp [regWrite]
@[simp] theorem regWrite_agenda : (regWrite p r w s).agenda = s.agenda := by simp [regWrite]
@[simp] theorem regWrite_draws : (regWrite p r w s).draws = s.draws := by simp [regWrite]
@[simp] theorem regWrite_inject : (regWrite p r w s).inject = s.inject := by simp [regWrite]
@[simp] theorem regWrite_body : (regWrite p r w s).body = s.body := by simp [regWrite]
@[simp] theorem regWrite_port_same : (regWrite p r w s).port p = (s.port p).writeReg r w := by simp [regWrite]
@[simp] theorem regWrite_port_ne (h : q ≠ p) : (regWrite p r w s).port q = s.port q := by simp [regWrite, h]
@[simp] theorem regWrite_trace : (regWrite p r w s).trace = s.trace ++ [.regWrite p r w] := by simp [regWrite]

/-! ### regRead -/

@[simp] theorem regRead_params : (regRead p rr s).params = s.params := by simp [regRead]
@[simp] theorem regRead_cu : (regRead p rr s).cu = s.cu := by simp [regRead]
@[simp] theorem regRead_tmo : (regRead p rr s).tmo = s.tmo := by simp [regRead]
@[simp] theorem regRead_resp : (regRead p rr s).resp = s.resp := by simp [regRead]
@[simp] theorem regRead_hostMem : (regRead p rr s).hostMem = s.hostMem := by simp [regRead]
@[simp] theorem regRead_requests : (regRead p rr s).requests = s.requests := by simp [regRead]
@[simp] theorem regRead_agenda : (regRead p rr s).agenda = s.agenda := by simp [regRead]
@[simp] theorem regRead_draws : (regRead p rr s).draws = s.draws := by simp [regRead]
@[simp] theorem regRead_inject : (regRead p rr s).inject = s.inject := by simp [regRead]
@[simp] theorem regRead_body : (regRead p rr s).body = s.body := by simp [regRead]
@[simp] theorem regRead_port : (regRead p rr s).port q = s.port q := by simp [regRead]
@[simp] theorem regRead_trace : (regRead p rr s).trace = s.trace ++ [.regRead p rr ((s.port p).readReg rr)] := by
  simp [regRead]

/-! ### irqEnable -/

@[simp] theorem irqEnable_params : (irqEnable p s).params = s.params := by simp [irqEnable]
@[simp] theorem irqEnable_cu : (irqEnable p s).cu = s.cu := by simp [irqEnable]
@[simp] theorem irqEnable_tmo : (irqEnable p s).tmo = s.tmo := by simp [irqEnable]
@[simp] theorem irqEnable_resp : (irqEnable p s).resp = s.resp := by simp [irqEnable]
@[simp] theorem irqEnable_hostMem : (irqEnable p s).hostMem = s.hostMem := by simp [irqEnable]
@[simp] theorem irqEnable_requests : (irqEnable p s).requests = s.requests := by simp [irqEnable]
@[simp] theorem irqEnable_agenda : (irqEnable p s).agenda = s.agenda := by simp [irqEnable]
@[simp] theorem irqEnable_draws : (irqEnable p s).draws = s.draws := by simp [irqEnable]
@[simp] theorem irqEnable_inject : (irqEnable p s).inject = s.inject := by simp [irqEnable]
@[simp] theorem irqEnable_body : (irqEnable p s).body = s.body := by simp [irqEnable]
@[simp] theorem irqEnable_port_same : (irqEnable p s).port p = { s.port p with irqEn := true } := by simp [irqEnable]
@[simp] theorem irqEnable_port_ne (h : q ≠ p) : (irqEnable p s).port q = s.port q := by simp [irqEnable, h]
@[simp] theorem irqEnable_trace : (irqEnable p s).trace = s.trace ++ [.irqEn p] := by simp [irqEnable]

/-! ### putState -/

@[simp] theorem putState_params : (putState p S s).params = s.params := by simp [putState]
@[simp] theorem putState_cu : (putState p S s).cu = s.cu := by simp [putState]
@[simp] theorem putState_tmo : (putState p S s).tmo = s.tmo := by simp [putState]
@[simp] theorem putState_resp : (putState p S s).resp = s.resp := by simp [putState]
@[simp] theorem putState_hostMem : (putState p S s).hostMem = s.hostMem := by simp [putState]
@[simp] theorem putState_requests : (putState p S s).requests = s.requests := by simp [putState]
@[simp] theorem putState_agenda : (putState p S s).agenda = s.agenda := by simp [putState]
@[simp] theorem putState_draws : (putState p S s).draws = s.draws := by simp [putState]
@[simp] theorem putState_inject : (putState p S s).inject = s.inject := by simp [putState]
@[simp] theorem putState_body : (putState p S s).body = s.body := by simp [putState]
@[simp] theorem putState_port_same : (putState p S s).port p = { s.port p with state := S } := by simp [putState]
@[simp] theorem putState_port_ne (h : q ≠ p) : (putState p S s).port q = s.port q := by simp [putState, h]
@[simp] theorem putState_trace : (putState p S s).trace = s.trace := by simp [putState]

/-! ### fire, finish -/

@[simp] theorem fire_params : (fire p s).params = s.params := by unfold fire; split <;> rfl
@[simp] theorem fire_cu : (fire p s).cu = s.cu := by unfold fire; split <;> rfl
@[simp] theorem fire_tmo : (fire p s).tmo = s.tmo := by unfold fire; split <;> rfl
@[simp] theorem fire_resp : (fire p s).resp = s.resp := by unfold fire; split <;> rfl
@[simp] theorem fire_hostMem : (fire p s).hostMem = s.hostMem := by unfold fire; split <;> rfl
@[simp] theorem fire_requests : (fire p s).requests = s.requests := by unfold fire; split <;> rfl
@[simp] theorem fire_agenda : (fire p s).agenda = s.agenda := by unfold fire; split <;> rfl
@[simp] theorem fire_draws : (fire p s).draws = s.draws := by unfold fire; split <;> rfl
@[simp] theorem fire_inject : (fire p s).inject = s.inject := by unfold fire; split <;> rfl
@[simp] theorem fire_body : (fire p s).body = bodyAfter (cbEntries p (s.port p)) s.body := by
  unfold fire cbEntries; split <;> simp_all [bodyAfter]
@[simp] theorem fire_port : (fire p s).port q = s.port q := by
  unfold fire; split
  · cases q <;> rfl
  · rfl
@[simp] theorem fire_trace : (fire p s).trace = s.trace ++ cbEntries p (s.port p) := by
  unfold fire cbEntries; split <;> simp_all

@[simp] theorem finish_params : (finish p S s).params = s.params := by simp [finish]
@[simp] theorem finish_cu : (finish p S s).cu = s.cu := by simp [finish]
@[simp] theorem finish_tmo : (finish p S s).tmo = s.tmo := by simp [finish]
@[simp] theorem finish_resp : (finish p S s).resp = s.resp := by simp [finish]
@[simp] theorem finish_hostMem : (finish p S s).hostMem = s.hostMem := by simp [finish]
@[simp] theorem finish_requests : (finish p S s).requests = s.requests := by simp [finish]
@[simp] theorem finish_agenda : (finish p S s).agenda = s.agenda := by simp [finish]
@[simp] theorem finish_draws : (finish p S s).draws = s.draws := by simp [finish]
@[simp] theorem finish_inject : (finish p S s).inject = s.inject := by simp [finish]
@[simp] theorem finish_body : (finish p S s).body = bodyAfter (cbEntries p (s.port p)) s.body := by
  simp [finish, cbEntries]
@[simp] theorem finish_port_same : (finish p S s).port p = { s.port p with state := S } := by simp [finish]
@[simp] theorem finish_port_ne (h : q ≠ p) : (finish p S s).port q = s.port q := by simp [finish, h]
@[simp] theorem finish_trace : (finish p S s).trace = s.trace ++ cbEntries p (s.port p) := by simp [finish, cbEntries]

/-! ### writeReg -/

@[simp] theorem writeReg_conset (x : Port) : x.writeReg .conset w = { x with ctl := x.ctl ||| w } := rfl
@[simp] theorem writeReg_conclr (x : Port) : x.writeReg .conclr w = { x with ctl := x.ctl &&& ~~~w } := rfl
@[simp] theorem writeReg_dat (x : Port) : x.writeReg .dat w = { x with dat := w } := rfl
@[simp] theorem writeReg_sclh (x : Port) : x.writeReg .sclh w = { x with sclh := w } := rfl
@[simp] theorem writeReg_scll (x : Port) : x.writeReg .scll w = { x with scll := w } := rfl

/-- A register write changes the bus controller's registers only. -/
theorem writeReg_context (x : Port) :
    (x.writeReg r w).txbuf = x.txbuf ∧ (x.writeReg r w).rxbuf = x.rxbuf ∧ (x.writeReg r w).txlen = x.txlen ∧
      (x.writeReg r w).txcur = x.txcur ∧ (x.writeReg r w).rxreq = x.rxreq ∧ (x.writeReg r w).rxcur = x.rxcur ∧
      (x.writeReg r w).state = x.state ∧ (x.writeReg r w).cb = x.cb ∧ (x.writeReg r w).irqEn = x.irqEn := by
  cases r <;> exact ⟨rfl, rfl, rfl, rfl, rfl, rfl, rfl, rfl, rfl⟩

/-! ### When a guarded operation answers a next state -/

variable {k : Result} {kb : Byte → Result} {ks : State → Result} {kbs : Byte → State → Result}

theorem withPort_pos (h : p.index < s.params.nports) : withPort p s k = k := if_pos h

theorem withPort_next : withPort p s k = .next t ↔ p.index < s.params.nports ∧ k = .next t := by
  unfold withPort; split <;> simp_all

theorem withArray_pos {a : HostArray} {n : Nat} (h : n ≤ a.len) : withArray a n k = k := if_pos h

theorem withArray_next {a : HostArray} {n : Nat} : withArray a n k = .next t ↔ n ≤ a.len ∧ k = .next t := by
  unfold withArray; split <;> simp_all

theorem withCapacity_pos {nw nr : Nat} (h : nw + 2 ≤ s.params.cap ∧ nr ≤ s.params.cap) : withCapacity nw nr s k = k :=
  if_pos h

theorem withCapacity_next {nw nr : Nat} :
    withCapacity nw nr s k = .next t ↔ (nw + 2 ≤ s.params.cap ∧ nr ≤ s.params.cap) ∧ k = .next t := by
  unfold withCapacity; split <;> simp_all

theorem txFetch_some {i : Nat} {b : Byte} (h : (s.port p).txbuf[i]? = some b) : txFetch p i s kb = kb b := by
  simp [txFetch, h]

theorem txFetch_none {i : Nat} (h : (s.port p).txbuf[i]? = none) :
    txFetch p i s kb = .fault (.bufferOverrun p .tx i s) := by
  simp [txFetch, h]

theorem txFetch_next {i : Nat} : txFetch p i s kb = .next t ↔ ∃ b, (s.port p).txbuf[i]? = some b ∧ kb b = .next t := by
  unfold txFetch; split <;> simp_all

/-- What a fetch can fault with: its own overrun, the state as it was, or a fault of what comes after. -/
theorem txFetch_fault {i : Nat} {f : Fault} :
    txFetch p i s kb = .fault f ↔
      ((s.port p).txbuf.length ≤ i ∧ f = .bufferOverrun p .tx i s) ∨
        ∃ b, (s.port p).txbuf[i]? = some b ∧ kb b = .fault f := by
  unfold txFetch; split <;> simp_all [eq_comm]; grind

theorem rxFetch_some {i : Nat} {b : Byte} (h : (s.port p).rxbuf[i]? = some b) : rxFetch p i s kb = kb b := by
  simp [rxFetch, h]

theorem rxFetch_none {i : Nat} (h : (s.port p).rxbuf[i]? = none) :
    rxFetch p i s kb = .fault (.bufferOverrun p .rx i s) := by
  simp [rxFetch, h]

theorem rxFetch_next {i : Nat} : rxFetch p i s kb = .next t ↔ ∃ b, (s.port p).rxbuf[i]? = some b ∧ kb b = .next t := by
  unfold rxFetch; split <;> simp_all

theorem rxFetch_fault {i : Nat} {f : Fault} :
    rxFetch p i s kb = .fault f ↔
      ((s.port p).rxbuf.length ≤ i ∧ f = .bufferOverrun p .rx i s) ∨
        ∃ b, (s.port p).rxbuf[i]? = some b ∧ kb b = .fault f := by
  unfold rxFetch; split <;> simp_all [eq_comm]; grind

theorem txPut_pos {i : Nat} (h : i < (s.port p).txbuf.length) :
    txPut p i b s ks = ks (s.modPort p fun x => { x with txbuf := x.txbuf.set i b }) := if_pos h

theorem txPut_next {i : Nat} :
    txPut p i b s ks = .next t ↔
      i < (s.port p).txbuf.length ∧ ks (s.modPort p fun x => { x with txbuf := x.txbuf.set i b }) = .next t := by
  unfold txPut; split <;> simp_all

theorem txPut_fault {i : Nat} {f : Fault} :
    txPut p i b s ks = .fault f ↔
      ((s.port p).txbuf.length ≤ i ∧ f = .bufferOverrun p .tx i s) ∨
        (i < (s.port p).txbuf.length ∧ ks (s.modPort p fun x => { x with txbuf := x.txbuf.set i b }) = .fault f) := by
  unfold txPut; split <;> simp_all [eq_comm]

theorem txNext_some {b : Byte} (h : (s.port p).txbuf[(s.port p).txcur]? = some b) :
    txNext p s kbs = kbs b (s.modPort p fun x => { x with txcur := x.txcur + 1 }) := by
  simp [txNext, txFetch, h]

theorem txNext_next :
    txNext p s kbs = .next t ↔
      ∃ b, (s.port p).txbuf[(s.port p).txcur]? = some b ∧
        kbs b (s.modPort p fun x => { x with txcur := x.txcur + 1 }) = .next t :=
  txFetch_next ..

theorem rxStore_pos (h : (s.port p).rxcur < (s.port p).rxbuf.length) :
    rxStore p b s ks = ks (s.modPort p fun x => { x with rxbuf := x.rxbuf.set x.rxcur b, rxcur := x.rxcur + 1 }) :=
  if_pos h

theorem rxStore_next :
    rxStore p b s ks = .next t ↔
      (s.port p).rxcur < (s.port p).rxbuf.length ∧
        ks (s.modPort p fun x => { x with rxbuf := x.rxbuf.set x.rxcur b, rxcur := x.rxcur + 1 }) = .next t := by
  unfold rxStore; split <;> simp_all

theorem rxStore_fault {f : Fault} :
    rxStore p b s ks = .fault f ↔
      ((s.port p).rxbuf.length ≤ (s.port p).rxcur ∧ f = .bufferOverrun p .rx (s.port p).rxcur s) ∨
        ((s.port p).rxcur < (s.port p).rxbuf.length ∧
          ks (s.modPort p fun x => { x with rxbuf := x.rxbuf.set x.rxcur b, rxcur := x.rxcur + 1 }) = .fault f) := by
  unfold rxStore; split <;> simp_all [eq_comm]

/-! ### The acknowledge decision, the ending of a transaction -/

theorem decideAck_more (h : (s.port p).rxcur + 1 < (s.port p).rxreq) : decideAck p s = actAssertAck p s := by
  simp [decideAck, moreThanOneLeft, h]

theorem decideAck_last (h : (s.port p).rxreq ≤ (s.port p).rxcur + 1) : decideAck p s = actAssertNack p s := by
  simp [decideAck, moreThanOneLeft, h]

/-! ### How a code comes to run -/

theorem runCode_ok {c : Code} {i : Instr} (h : decode s.params c = .ok i) : runCode c s = exec i s := by
  simp [runCode, h]

/-- An event runs the body its status byte selects (R80): a status word always decodes. -/
theorem handleInterrupt_eq :
    handleInterrupt p s = exec (classify s.params.sc p (lowByte (s.port p).stat)) (actReadStatus p s) := by
  simp [handleInterrupt, runCode, decode, actReadStatus]

/-- What the command unit can do (R110). -/
theorem commandTurn_cases :
    (∃ i, s.cu.cur = some i ∧ commandTurn s = exec i s) ∨
      (s.cu.cur = none ∧ s.requests = [] ∧ commandTurn s = .next s) ∨
      ∃ r l, s.cu.cur = none ∧ s.requests = r :: l ∧
        commandTurn s = runCode (.command r) { s with requests := l, cu := .idle } := by
  unfold commandTurn
  split <;> simp_all

/-- A filled agenda is never empty. -/
theorem schedule_agenda_ne : s.schedule.agenda ≠ [] := by
  unfold State.schedule; split <;> simp_all

@[simp] theorem schedule_cons {u : Turn} {l : List Turn} (h : s.agenda = u :: l) : s.schedule = s := by
  unfold State.schedule; simp [h]

theorem schedule_nil (h : s.agenda = []) :
    s.schedule = { s with agenda := Config.oracle s.draws ++ [.command], draws := s.draws + 1 } := by
  unfold State.schedule; simp [h]

/-! ### A callback that has not returned (R156) -/

theorem unlessHung_none (h : s.body.hung = none) : unlessHung s k = k := by
  simp [unlessHung, h]

theorem unlessHung_some (h : s.body.hung = some q) : unlessHung s k = .next s := by
  simp [unlessHung, h]

theorem unlessHung_next :
    unlessHung s k = .next t ↔ (s.body.hung = none ∧ k = .next t) ∨ (s.body.hung ≠ none ∧ s = t) := by
  unfold unlessHung
  split <;> simp_all

end Sys2Proof.Machine
end

