-- ==== Sys2Proof/Laws/Answers.lean ====
section
/-! SUPPORT. How to show an `Answers`, and how runs of instructions compose. -/

namespace Sys2Proof.Machine

theorem restSame_intro {s t : State} (h1 : t.params = s.params) (h2 : t.hostMem = s.hostMem)
    (h3 : t.requests = s.requests) (h4 : t.agenda = s.agenda) (h5 : t.draws = s.draws) (h6 : t.inject = s.inject) :
    RestSame s t :=
  ⟨h1, h2, fun a => by simp [State.hostRead, h2], h3, h4, h5, h6⟩

/-- An outcome answers when it is a next state with the fields asked for. -/
theorem answers_intro {r : Result} {s t : State} {p : PortId} {x : Port} {es : List TraceEntry} {cu : CommandUnit} {tmo : Nat}
    {resp : Option Response} (h : r = .next t) (hx : t.port p = x) (he : t.trace = s.trace ++ es)
    (hb : t.body = bodyAfter es s.body) (hc : t.cu = cu) (ht : t.tmo = tmo) (hr : t.resp = resp) (ho : ∀ q, q ≠ p → t.port q = s.port q) (h1 : t.params = s.params)
    (h2 : t.hostMem = s.hostMem) (h3 : t.requests = s.requests) (h4 : t.agenda = s.agenda) (h5 : t.draws = s.draws)
    (h6 : t.inject = s.inject) : Answers r s p x es cu tmo resp :=
  ⟨t, h, hx, he, hb, hc, ht, hr, ho, restSame_intro h1 h2 h3 h4 h5 h6⟩

/-- Invocations compose as the trace entries do. -/
@[simp] theorem bodyAfter_append (es fs : List TraceEntry) (b : CallbackBody) :
    bodyAfter (es ++ fs) b = bodyAfter fs (bodyAfter es b) := by
  induction es generalizing b with
  | nil => rfl
  | cons e es ih => cases e <;> exact ih _

/-- Without a CB nothing is invoked. -/
theorem bodyAfter_of_no_cb {es : List TraceEntry} (h : ∀ q g, .cb q g ∉ es) (b : CallbackBody) : bodyAfter es b = b := by
  induction es with
  | nil => rfl
  | cons e es ih =>
    have ih := ih fun q g m => h q g (.tail _ m)
    cases e with
    | cb q g => exact absurd (.head _) (h q g)
    | _ => exact ih

/-- A run of one list after another. -/
theorem runAll_append {l m : List Instr} {s t : State} (h : runAll l s = .next t) : runAll (l ++ m) s = runAll m t := by
  induction l generalizing s with
  | nil => cases h; rfl
  | cons i l ih =>
    rw [runAll] at h
    rw [List.cons_append, runAll]
    split at h
    · exact ih h
    · cases h
    · cases h

/-- A run of one list of turns after another. -/
theorem runTurns_append {l m : List Turn} {s t : State} (h : runTurns l s = .next t) :
    runTurns (l ++ m) s = runTurns m t := by
  induction l generalizing s with
  | nil => cases h; rfl
  | cons i l ih =>
    rw [runTurns] at h
    rw [List.cons_append, runTurns]
    split at h
    · exact ih h
    · cases h
    · cases h

theorem runAll_cons_next {i : Instr} {l : List Instr} {s t : State} (h : exec i s = .next t) :
    runAll (i :: l) s = runAll l t := by
  rw [runAll, h]

/-! ### How frames and `Answers` compose -/

theorem otherPortsSame_trans {p : PortId} {s t u : State} (h : OtherPortsSame p s t) (k : OtherPortsSame p t u) :
    OtherPortsSame p s u := fun q hq => (k q hq).trans (h q hq)

theorem restSame_refl (s : State) : RestSame s s := ⟨rfl, rfl, fun _ => rfl, rfl, rfl, rfl, rfl⟩

theorem restSame_trans {s t u : State} (h : RestSame s t) (k : RestSame t u) : RestSame s u := by
  obtain ⟨a, b, _, d, e, f, g⟩ := h
  obtain ⟨a', b', _, d', e', f', g'⟩ := k
  exact restSame_intro (a'.trans a) (b'.trans b) (d'.trans d) (e'.trans e) (f'.trans f) (g'.trans g)

/-- The empty run. -/
theorem answers_nil (s : State) (p : PortId) : Answers (runAll [] s) s p (s.port p) [] s.cu s.tmo s.resp :=
  ⟨s, rfl, rfl, (List.append_nil _).symm, rfl, rfl, rfl, rfl, fun _ _ => rfl, restSame_refl s⟩

/-- A run that answers, and from where it ends another that does. -/
theorem answers_append {l m : List Instr} {s : State} {p : PortId} {x y : Port} {es fs : List TraceEntry}
    {cu cu' : CommandUnit} {n n' : Nat} {r r' : Option Response} (h : Answers (runAll l s) s p x es cu n r)
    (k : ∀ t, t.port p = x → t.cu = cu → t.tmo = n → t.resp = r → t.body = bodyAfter es s.body → RestSame s t →
      Answers (runAll m t) t p y fs cu' n' r') : Answers (runAll (l ++ m) s) s p y (es ++ fs) cu' n' r' := by
  obtain ⟨t, h1, h2, h3, hb, h4, h5, h6, h7, h8⟩ := h
  obtain ⟨u, k1, k2, k3, kb, k4, k5, k6, k7, k8⟩ := k t h2 h4 h5 h6 hb h8
  exact ⟨u, by rw [runAll_append h1, k1], k2, by rw [k3, h3, List.append_assoc], by rw [kb, hb, bodyAfter_append], k4, k5, k6,
    otherPortsSame_trans h7 k7, restSame_trans h8 k8⟩

/-- One instruction that answers, and from there a run that does. -/
theorem answers_cons {i : Instr} {m : List Instr} {s : State} {p : PortId} {x y : Port} {es fs : List TraceEntry}
    {cu cu' : CommandUnit} {n n' : Nat} {r r' : Option Response} (h : Answers (exec i s) s p x es cu n r)
    (k : ∀ t, t.port p = x → t.cu = cu → t.tmo = n → t.resp = r → t.body = bodyAfter es s.body → RestSame s t →
      Answers (runAll m t) t p y fs cu' n' r') : Answers (runAll (i :: m) s) s p y (es ++ fs) cu' n' r' := by
  refine answers_append (l := [i]) ?_ k
  obtain ⟨t, h1, h⟩ := h
  exact ⟨t, runAll_cons_next h1, h⟩

/-! ### How runs compose -/

theorem runSteps_succ {n : Nat} {s t : State} (h : step s = .next t) : runSteps (n + 1) s = runSteps n t := by
  rw [runSteps, h]

theorem runTurns_cons_next {u : Turn} {l : List Turn} {s t : State} (h : takeTurn u s = .next t) :
    runTurns (u :: l) s = runTurns l t := by
  rw [runTurns, h]

end Sys2Proof.Machine
end

