-- ==== Sys2Proof/Laws/Events.lean ====
section
/-! SUPPORT. What an event can do, said once: whenever an event answers a next state, its port and its accesses are one of the forms of
`EventEffect`, and everything else is as before. -/

namespace Sys2Proof.Machine

/-- The forms an event's effect on its port `x` takes: the new port and the trace entries. -/
inductive EventEffect (P : Params) (x : Port) : Instr → Port → List TraceEntry → Prop where
  | start (p : PortId) (b : Byte) (h : x.txbuf[0]? = some b) :
      EventEffect P x (.evStart p)
        { x with txcur := 1, state := .started, dat := zext32 b, ctl := x.ctl &&& ~~~(P.flag.start ||| P.flag.si) }
        [.regWrite p .dat (zext32 b), .regWrite p .conclr (P.flag.start ||| P.flag.si)]
  | rstart (p : PortId) (b : Byte) (h : x.txbuf[x.txlen]? = some b) :
      EventEffect P x (.evRstart p)
        { x with rxcur := 0, state := .restarted, dat := zext32 b, ctl := x.ctl &&& ~~~(P.flag.start ||| P.flag.si) }
        [.regWrite p .dat (zext32 b), .regWrite p .conclr (P.flag.start ||| P.flag.si)]
  | send (i : Instr) (p : PortId) (b : Byte) (hi : i = .evSlawAck p ∨ i = .evTxdataAck p) (hc : x.txcur < x.txlen)
      (h : x.txbuf[x.txcur]? = some b) :
      EventEffect P x i { x with txcur := x.txcur + 1, dat := zext32 b, ctl := x.ctl &&& ~~~P.flag.si }
        [.regWrite p .dat (zext32 b), .regWrite p .conclr P.flag.si]
  | restart (p : PortId) (hc : x.txlen ≤ x.txcur) (hr : 0 < x.rxreq) :
      EventEffect P x (.evTxdataAck p) { x with ctl := (x.ctl ||| P.flag.start) &&& ~~~P.flag.si }
        [.regWrite p .conset P.flag.start, .regWrite p .conclr P.flag.si]
  | finish (i : Instr) (p : PortId) (S : TxState)
      (hi : (i = .evSlawAck p ∧ S = .ok ∧ x.txlen ≤ x.txcur) ∨ (i = .evTxdataAck p ∧ S = .ok ∧ x.txlen ≤ x.txcur ∧ x.rxreq = 0) ∨
        (i = .evTxdataNack p ∧ S = .nackOnData) ∨ (i = .evAddrNackWrite p ∧ S = .nackOnAddress) ∨
        (i = .evAddrNackRead p ∧ S = .nackOnAddress)) :
      EventEffect P x i { x with state := S, ctl := (x.ctl ||| P.flag.stop) &&& ~~~P.flag.si }
        ([.regWrite p .conset P.flag.stop, .regWrite p .conclr P.flag.si] ++ cbEntries p x)
  | slarMore (p : PortId) (hc : x.rxcur + 1 < x.rxreq) :
      EventEffect P x (.evSlarAck p) { x with ctl := (x.ctl ||| P.flag.ack) &&& ~~~P.flag.si }
        [.regWrite p .conset P.flag.ack, .regWrite p .conclr P.flag.si]
  | slarLast (p : PortId) (hc : x.rxreq ≤ x.rxcur + 1) :
      EventEffect P x (.evSlarAck p) { x with ctl := x.ctl &&& ~~~P.flag.ack &&& ~~~P.flag.si }
        [.regWrite p .conclr P.flag.ack, .regWrite p .conclr P.flag.si]
  | storeMore (p : PortId) (hb : x.rxcur < x.rxbuf.length) (hc : x.rxcur + 2 < x.rxreq) :
      EventEffect P x (.evRxdataAck p)
        { x with
          rxbuf := x.rxbuf.set x.rxcur (lowByte x.dat)
          rxcur := x.rxcur + 1
          ctl := (x.ctl ||| P.flag.ack) &&& ~~~P.flag.si }
        [.regRead p .dat x.dat, .regWrite p .conset P.flag.ack, .regWrite p .conclr P.flag.si]
  | storeLast (p : PortId) (hb : x.rxcur < x.rxbuf.length) (hc : x.rxreq ≤ x.rxcur + 2) :
      EventEffect P x (.evRxdataAck p)
        { x with
          rxbuf := x.rxbuf.set x.rxcur (lowByte x.dat)
          rxcur := x.rxcur + 1
          ctl := x.ctl &&& ~~~P.flag.ack &&& ~~~P.flag.si }
        [.regRead p .dat x.dat, .regWrite p .conclr P.flag.ack, .regWrite p .conclr P.flag.si]
  | storeEnd (p : PortId) (hb : x.rxcur < x.rxbuf.length) :
      EventEffect P x (.evRxdataNack p)
        { x with
          rxbuf := x.rxbuf.set x.rxcur (lowByte x.dat)
          rxcur := x.rxcur + 1
          state := .ok
          ctl := (x.ctl ||| P.flag.stop) &&& ~~~P.flag.si }
        ([.regRead p .dat x.dat, .regWrite p .conset P.flag.stop, .regWrite p .conclr P.flag.si] ++ cbEntries p x)
  | clear (i : Instr) (p : PortId) (hi : (i = .evArbLost p ∧ P.arbLostSetsState = false) ∨ ∃ b, i = .evUnrecognised p b) :
      EventEffect P x i { x with ctl := x.ctl &&& ~~~P.flag.si } [.regWrite p .conclr P.flag.si]
  | lost (p : PortId) (h : P.arbLostSetsState = true) :
      EventEffect P x (.evArbLost p) { x with state := .arbitrationLost, ctl := x.ctl &&& ~~~P.flag.si }
        ([.regWrite p .conclr P.flag.si] ++ cbEntries p x)

theorem portStep_intro {s t : State} {p : PortId} {y : Port} {es : List TraceEntry} (hx : t.port p = y)
    (he : t.trace = s.trace ++ es) (hb : t.body = bodyAfter es s.body) (hc : t.cu = s.cu) (ht : t.tmo = s.tmo) (hr : t.resp = s.resp)
    (ho : ∀ q, q ≠ p → t.port q = s.port q) (h1 : t.params = s.params) (h2 : t.hostMem = s.hostMem)
    (h3 : t.requests = s.requests) (h4 : t.agenda = s.agenda) (h5 : t.draws = s.draws) (h6 : t.inject = s.inject) :
    PortStep s t p y es :=
  ⟨hx, he, hb, hc, ht, hr, ho, restSame_intro h1 h2 h3 h4 h5 h6⟩

/-- Firing the callback touches the trace alone. -/
theorem fire_portStep {s t : State} {p : PortId} {y : Port} {es : List TraceEntry} (h : PortStep s t p y es) :
    PortStep s (fire p t) p y (es ++ cbEntries p y) := by
  obtain ⟨h1, h2, hb, h3, h4, h5, h6, a, b, c, d, e, f, g⟩ := h
  refine portStep_intro ?_ ?_ ?_ ?_ ?_ ?_ ?_ ?_ ?_ ?_ ?_ ?_ ?_ <;> simp +contextual [h1, h2, hb, h3, h4, h5, a, b, d, e, f, g, h6 _]

/-- Asserting STOP, clearing SI and ending the transaction (R83 to R86, R92). -/
theorem stopAndFinish_portStep (p : PortId) (S : TxState) (s : State) :
    PortStep s (stopAndFinish p S s) p
      { s.port p with state := S, ctl := ((s.port p).ctl ||| s.params.flag.stop) &&& ~~~s.params.flag.si }
      ([.regWrite p .conset s.params.flag.stop, .regWrite p .conclr s.params.flag.si] ++ cbEntries p (s.port p)) := by
  refine portStep_intro ?_ ?_ ?_ ?_ ?_ ?_ ?_ ?_ ?_ ?_ ?_ ?_ ?_ <;>
    simp +contextual [bodyAfter, stopAndFinish, actClearSI, actAssertStop, cbEntries]

/-- Sending the next byte (the first branch of R83 and of R84). -/
theorem sendNext_eq_next {p : PortId} {s t : State} (h : sendNext p s = .next t) :
    ∃ b, (s.port p).txbuf[(s.port p).txcur]? = some b ∧
      PortStep s t p
        { s.port p with
          txcur := (s.port p).txcur + 1
          dat := zext32 b
          ctl := (s.port p).ctl &&& ~~~s.params.flag.si }
        [.regWrite p .dat (zext32 b), .regWrite p .conclr s.params.flag.si] := by
  obtain ⟨b, hb, h⟩ := (txFetch_next ..).1 h
  refine ⟨b, hb, ?_⟩
  cases h
  refine portStep_intro ?_ ?_ ?_ ?_ ?_ ?_ ?_ ?_ ?_ ?_ ?_ ?_ ?_ <;>
    simp +contextual [bodyAfter, actWriteData, actClearSI]

/-- The acknowledge decision and the clearing of SI (R90, R91). -/
theorem decideAck_portStep (p : PortId) (s : State) : ∃ y es, PortStep s (actClearSI p (decideAck p s)) p y es ∧
    (((s.port p).rxcur + 1 < (s.port p).rxreq ∧
        y = { s.port p with ctl := ((s.port p).ctl ||| s.params.flag.ack) &&& ~~~s.params.flag.si } ∧
        es = [.regWrite p .conset s.params.flag.ack, .regWrite p .conclr s.params.flag.si]) ∨
      ((s.port p).rxreq ≤ (s.port p).rxcur + 1 ∧
        y = { s.port p with ctl := (s.port p).ctl &&& ~~~s.params.flag.ack &&& ~~~s.params.flag.si } ∧
        es = [.regWrite p .conclr s.params.flag.ack, .regWrite p .conclr s.params.flag.si])) := by
  by_cases hm : (s.port p).rxcur + 1 < (s.port p).rxreq
  · refine ⟨_, _, ?_, .inl ⟨hm, rfl, rfl⟩⟩
    rw [decideAck_more s p hm]
    refine portStep_intro ?_ ?_ ?_ ?_ ?_ ?_ ?_ ?_ ?_ ?_ ?_ ?_ ?_ <;>
      simp +contextual [bodyAfter, actAssertAck, actClearSI]
  · refine ⟨_, _, ?_, .inr ⟨Nat.not_lt.1 hm, rfl, rfl⟩⟩
    rw [decideAck_last s p (Nat.not_lt.1 hm)]
    refine portStep_intro ?_ ?_ ?_ ?_ ?_ ?_ ?_ ?_ ?_ ?_ ?_ ?_ ?_ <;>
      simp +contextual [bodyAfter, actAssertNack, actClearSI]

theorem portStep_trans {s t u : State} {p : PortId} {x y : Port} {es fs : List TraceEntry} (h : PortStep s t p x es)
    (k : PortStep t u p y fs) : PortStep s u p y (es ++ fs) := by
  obtain ⟨_, h2, hb, h3, h4, h5, h6, a, b, c, d, e, f, g⟩ := h
  obtain ⟨k1, k2, kb, k3, k4, k5, k6, a', b', c', d', e', f', g'⟩ := k
  exact ⟨k1, by rw [k2, h2, List.append_assoc], by rw [kb, hb, bodyAfter_append], k3.trans h3, k4.trans h4, k5.trans h5, fun q hq => (k6 q hq).trans (h6 q hq),
    a'.trans a, b'.trans b, fun z => (c' z).trans (c z), d'.trans d, e'.trans e, f'.trans f, g'.trans g⟩

/-- Reading DAT and storing its byte (the first two lines of R91 and R92). -/
theorem readStore_portStep (p : PortId) (s : State) (b : Byte) :
    PortStep s ((actReadData p s).modPort p fun x => { x with rxbuf := x.rxbuf.set x.rxcur b, rxcur := x.rxcur + 1 }) p
      { s.port p with rxbuf := (s.port p).rxbuf.set (s.port p).rxcur b, rxcur := (s.port p).rxcur + 1 }
      [.regRead p .dat (s.port p).dat] := by
  refine portStep_intro ?_ ?_ ?_ ?_ ?_ ?_ ?_ ?_ ?_ ?_ ?_ ?_ ?_ <;> simp +contextual [bodyAfter, actReadData, Port.readReg]

/-- Whatever an event answers a next state, that state is one of the forms. -/
theorem event_next {i : Instr} {s t : State} (hi : i.isEvent = true) (h : exec i s = .next t) :
    i.port.index < s.params.nports ∧
      ∃ y es, EventEffect s.params (s.port i.port) i y es ∧ PortStep s t i.port y es := by
  cases i with
  | evStart p =>
    obtain ⟨hp, h⟩ := (withPort_next ..).1 h
    obtain ⟨b, hb, h⟩ := (txFetch_next ..).1 h
    cases h
    refine ⟨hp, _, _, .start p b (by simpa [Instr.port] using hb), ?_⟩
    refine portStep_intro ?_ ?_ ?_ ?_ ?_ ?_ ?_ ?_ ?_ ?_ ?_ ?_ ?_ <;>
      simp +contextual [bodyAfter, Instr.port, actWriteData, actClearStartSI]
  | evRstart p =>
    obtain ⟨hp, h⟩ := (withPort_next ..).1 h
    obtain ⟨b, hb, h⟩ := (txFetch_next ..).1 h
    cases h
    refine ⟨hp, _, _, .rstart p b (by simpa [Instr.port] using hb), ?_⟩
    refine portStep_intro ?_ ?_ ?_ ?_ ?_ ?_ ?_ ?_ ?_ ?_ ?_ ?_ ?_ <;>
      simp +contextual [bodyAfter, Instr.port, actWriteData, actClearStartSI]
  | evSlawAck p =>
    obtain ⟨hp, h⟩ := (withPort_next ..).1 h
    refine ⟨hp, ?_⟩
    split at h
    · obtain ⟨b, hb, h⟩ := sendNext_eq_next h
      exact ⟨_, _, .send _ p b (.inl rfl) ‹_› hb, h⟩
    · cases h
      exact ⟨_, _, .finish _ p _ (.inl ⟨rfl, rfl, Nat.not_lt.1 ‹_›⟩), stopAndFinish_portStep ..⟩
  | evTxdataAck p =>
    obtain ⟨hp, h⟩ := (withPort_next ..).1 h
    refine ⟨hp, ?_⟩
    split at h
    · obtain ⟨b, hb, h⟩ := sendNext_eq_next h
      exact ⟨_, _, .send _ p b (.inr rfl) ‹_› hb, h⟩
    · rename_i hc
      split at h
      · cases h
        refine ⟨_, _, .restart p (Nat.not_lt.1 hc) ‹_›, ?_⟩
        refine portStep_intro ?_ ?_ ?_ ?_ ?_ ?_ ?_ ?_ ?_ ?_ ?_ ?_ ?_ <;>
          simp +contextual [bodyAfter, Instr.port, actAssertStart, actClearSI]
      · rename_i hr
        cases h
        exact ⟨_, _, .finish _ p _ (.inr (.inl ⟨rfl, rfl, Nat.not_lt.1 hc, Nat.eq_zero_of_not_pos hr⟩)),
          stopAndFinish_portStep ..⟩
  | evTxdataNack p =>
    obtain ⟨hp, h⟩ := (withPort_next ..).1 h
    cases h
    exact ⟨hp, _, _, .finish _ p _ (.inr (.inr (.inl ⟨rfl, rfl⟩))), stopAndFinish_portStep ..⟩
  | evAddrNackWrite p =>
    obtain ⟨hp, h⟩ := (withPort_next ..).1 h
    cases h
    exact ⟨hp, _, _, .finish _ p _ (.inr (.inr (.inr (.inl ⟨rfl, rfl⟩)))), stopAndFinish_portStep ..⟩
  | evAddrNackRead p =>
    obtain ⟨hp, h⟩ := (withPort_next ..).1 h
    cases h
    exact ⟨hp, _, _, .finish _ p _ (.inr (.inr (.inr (.inr ⟨rfl, rfl⟩)))), stopAndFinish_portStep ..⟩
  | evSlarAck p =>
    obtain ⟨hp, h⟩ := (withPort_next ..).1 h
    cases h
    obtain ⟨y, es, k, ⟨hc, rfl, rfl⟩ | ⟨hc, rfl, rfl⟩⟩ := decideAck_portStep p s
    · exact ⟨hp, _, _, .slarMore p hc, k⟩
    · exact ⟨hp, _, _, .slarLast p hc, k⟩
  | evRxdataAck p =>
    obtain ⟨hp, h⟩ := (withPort_next ..).1 h
    obtain ⟨hb, h⟩ := (rxStore_next ..).1 h
    cases h
    have hb : (s.port p).rxcur < (s.port p).rxbuf.length := by simpa [actReadData] using hb
    have st := readStore_portStep p s (dataByte p s)
    obtain ⟨y, es, k, ⟨hc, rfl, rfl⟩ | ⟨hc, rfl, rfl⟩⟩ := decideAck_portStep p _
    all_goals
      have k := portStep_trans st k
      simp only [modPort_params, modPort_port_same] at k
      simp only [modPort_port_same, actReadData, regRead_port, regRead_params] at k hc
    · exact ⟨hp, _, _, .storeMore p hb (show (s.port p).rxcur + 2 < (s.port p).rxreq by omega), k⟩
    · exact ⟨hp, _, _, .storeLast p hb (show (s.port p).rxreq ≤ (s.port p).rxcur + 2 by omega), k⟩
  | evRxdataNack p =>
    obtain ⟨hp, h⟩ := (withPort_next ..).1 h
    obtain ⟨hb, h⟩ := (rxStore_next ..).1 h
    cases h
    have hb : (s.port p).rxcur < (s.port p).rxbuf.length := by simpa [actReadData] using hb
    have k := portStep_trans (readStore_portStep p s (dataByte p s)) (stopAndFinish_portStep p .ok _)
    simp only [modPort_params, modPort_port_same, actReadData, regRead_port, regRead_params] at k
    exact ⟨hp, _, _, .storeEnd p hb, k⟩
  | evArbLost p =>
    obtain ⟨hp, h⟩ := (withPort_next ..).1 h
    have st : PortStep s (actClearSI p s) p { s.port p with ctl := (s.port p).ctl &&& ~~~s.params.flag.si }
        [.regWrite p .conclr s.params.flag.si] := by
      refine portStep_intro ?_ ?_ ?_ ?_ ?_ ?_ ?_ ?_ ?_ ?_ ?_ ?_ ?_ <;> simp +contextual [bodyAfter, actClearSI]
    cases hb : s.params.arbLostSetsState with
    | false =>
      rw [hb] at h
      cases h
      exact ⟨hp, _, _, .clear _ p (.inl ⟨rfl, hb⟩), st⟩
    | true =>
      rw [hb] at h
      cases h
      refine ⟨hp, _, _, .lost p hb, fire_portStep ?_⟩
      refine portStep_intro ?_ ?_ ?_ ?_ ?_ ?_ ?_ ?_ ?_ ?_ ?_ ?_ ?_ <;>
        simp +contextual [bodyAfter, Instr.port, actClearSI]
  | evUnrecognised p b =>
    obtain ⟨hp, h⟩ := (withPort_next ..).1 h
    cases h
    refine ⟨hp, _, _, .clear _ p (.inr ⟨b, rfl⟩), ?_⟩
    refine portStep_intro ?_ ?_ ?_ ?_ ?_ ?_ ?_ ?_ ?_ ?_ ?_ ?_ ?_ <;>
      simp +contextual [bodyAfter, Instr.port, actClearSI]
  | _ => cases hi

end Sys2Proof.Machine
end

