-- ==== Sys2Proof/Laws/Commands.lean ====
section
/-! SUPPORT. What an instruction that is no event can do, said once, and what kind of instruction each code decodes to. -/

namespace Sys2Proof.Machine

/-- What every step of a command, and every action, leaves of `s` in `t`, with the trace entries `es` it adds: parameters, queues and
the other ports stay; the entries are of its port, are no callback and write listed words only (R61); the state register changes as
tabled (R131) and irq_en as INIT line 5 says (R54). -/
structure ForegroundStep (i : Instr) (s t : State) (es : List TraceEntry) : Prop where
  params : t.params = s.params
  requests : t.requests = s.requests
  agenda : t.agenda = s.agenda
  draws : t.draws = s.draws
  inject : t.inject = s.inject
  body : t.body = s.body
  others : ∀ q, q ≠ i.port → t.port q = s.port q
  trace : t.trace = s.trace ++ es
  entries : ∀ e ∈ es, e.port = i.port ∧ (∀ q h, e ≠ .cb q h) ∧ ∀ q r w, e = .regWrite q r w → wordListed s.params r w
  state : (t.port i.port).state = (s.port i.port).state ∨ writesState i s (t.port i.port).state
  irqEn : (t.port i.port).irqEn = (s.port i.port).irqEn ∨
    (i = .init i.port ∧ s.cu.line = 5 ∧ (t.port i.port).irqEn = true ∧ es = [.irqEn i.port])

/-- Every action is such a step. -/
theorem action_next {i : Instr} {s t : State} (hc : i.isCommand = false) (he : i.isEvent = false)
    (h : exec i s = .next t) : ∃ es, ForegroundStep i s t es := by
  cases i with
  | assertStart p =>
    obtain ⟨_, h⟩ := (withPort_next ..).1 h
    cases h
    refine ⟨[.regWrite p .conset s.params.flag.start], ?_, ?_, ?_, ?_, ?_, ?_, ?_, ?_, ?_, ?_, ?_⟩ <;>
      simp +contextual [Instr.port, TraceEntry.port, actAssertStart, wordListed]
  | clearStartSI p =>
    obtain ⟨_, h⟩ := (withPort_next ..).1 h
    cases h
    refine ⟨[.regWrite p .conclr (s.params.flag.start ||| s.params.flag.si)], ?_, ?_, ?_, ?_, ?_, ?_, ?_, ?_, ?_, ?_, ?_⟩ <;>
      simp +contextual [Instr.port, TraceEntry.port, actClearStartSI, wordListed]
  | assertStop p =>
    obtain ⟨_, h⟩ := (withPort_next ..).1 h
    cases h
    refine ⟨[.regWrite p .conset s.params.flag.stop], ?_, ?_, ?_, ?_, ?_, ?_, ?_, ?_, ?_, ?_, ?_⟩ <;>
      simp +contextual [Instr.port, TraceEntry.port, actAssertStop, wordListed]
  | assertAck p =>
    obtain ⟨_, h⟩ := (withPort_next ..).1 h
    cases h
    refine ⟨[.regWrite p .conset s.params.flag.ack], ?_, ?_, ?_, ?_, ?_, ?_, ?_, ?_, ?_, ?_, ?_⟩ <;>
      simp +contextual [Instr.port, TraceEntry.port, actAssertAck, wordListed]
  | assertNack p =>
    obtain ⟨_, h⟩ := (withPort_next ..).1 h
    cases h
    refine ⟨[.regWrite p .conclr s.params.flag.ack], ?_, ?_, ?_, ?_, ?_, ?_, ?_, ?_, ?_, ?_, ?_⟩ <;>
      simp +contextual [Instr.port, TraceEntry.port, actAssertNack, wordListed]
  | clearSI p =>
    obtain ⟨_, h⟩ := (withPort_next ..).1 h
    cases h
    refine ⟨[.regWrite p .conclr s.params.flag.si], ?_, ?_, ?_, ?_, ?_, ?_, ?_, ?_, ?_, ?_, ?_⟩ <;>
      simp +contextual [Instr.port, TraceEntry.port, actClearSI, wordListed]
  | writeData p b =>
    obtain ⟨_, h⟩ := (withPort_next ..).1 h
    cases h
    refine ⟨[.regWrite p .dat (zext32 b)], ?_, ?_, ?_, ?_, ?_, ?_, ?_, ?_, ?_, ?_, ?_⟩ <;>
      simp +contextual [Instr.port, TraceEntry.port, actWriteData, wordListed]
  | readData p =>
    obtain ⟨_, h⟩ := (withPort_next ..).1 h
    cases h
    refine ⟨[.regRead p .dat (s.port p).dat], ?_, ?_, ?_, ?_, ?_, ?_, ?_, ?_, ?_, ?_, ?_⟩ <;>
      simp +contextual [Instr.port, TraceEntry.port, actReadData, Port.readReg]
  | readStatus p =>
    obtain ⟨_, h⟩ := (withPort_next ..).1 h
    cases h
    refine ⟨[.regRead p .stat (s.port p).stat], ?_, ?_, ?_, ?_, ?_, ?_, ?_, ?_, ?_, ?_, ?_⟩ <;>
      simp +contextual [Instr.port, TraceEntry.port, actReadStatus, Port.readReg]
  | initClear p =>
    obtain ⟨_, h⟩ := (withPort_next ..).1 h
    cases h
    refine ⟨[.regWrite p .conclr s.params.flag.initClear], ?_, ?_, ?_, ?_, ?_, ?_, ?_, ?_, ?_, ?_, ?_⟩ <;>
      simp +contextual [Instr.port, TraceEntry.port, actInitClear, wordListed, FlagMasks.initClear]
  | initEnable p =>
    obtain ⟨_, h⟩ := (withPort_next ..).1 h
    cases h
    refine ⟨[.regWrite p .conset s.params.flag.enable], ?_, ?_, ?_, ?_, ?_, ?_, ?_, ?_, ?_, ?_, ?_⟩ <;>
      simp +contextual [Instr.port, TraceEntry.port, actInitEnable, wordListed]
  | initDivisors p =>
    obtain ⟨_, h⟩ := (withPort_next ..).1 h
    cases h
    refine ⟨[.regWrite p .sclh s.params.clkHigh, .regWrite p .scll s.params.clkLow], ?_, ?_, ?_, ?_, ?_, ?_, ?_, ?_, ?_, ?_, ?_⟩ <;>
      simp +contextual [Instr.port, TraceEntry.port, actDivisorHigh, actDivisorLow]
    exact ⟨rfl, rfl⟩
  | evStart _ | evRstart _ | evSlawAck _ | evAddrNackWrite _ | evTxdataAck _ | evTxdataNack _ | evArbLost _ | evSlarAck _
  | evAddrNackRead _ | evRxdataAck _ | evRxdataNack _ | evUnrecognised _ _ => cases he
  | init _ | setHandler _ _ | write _ _ _ _ | read _ _ _ _ _ _ | start _ | stop _ | getState _ | engine _ => cases hc

/-- An action leaves the command unit, tmo, the response and host memory. -/
theorem action_keeps {i : Instr} {s t : State} (hc : i.isCommand = false) (he : i.isEvent = false)
    (h : exec i s = .next t) : t.cu = s.cu ∧ t.tmo = s.tmo ∧ t.resp = s.resp ∧ t.hostMem = s.hostMem := by
  cases i with
  | init _ | setHandler _ _ | write _ _ _ _ | read _ _ _ _ _ _ | start _ | stop _ | getState _ | engine _ => cases hc
  | evStart _ | evRstart _ | evSlawAck _ | evAddrNackWrite _ | evTxdataAck _ | evTxdataNack _ | evArbLost _ | evSlarAck _
  | evAddrNackRead _ | evRxdataAck _ | evRxdataNack _ | evUnrecognised _ _ => cases he
  | _ =>
    obtain ⟨_, h⟩ := (withPort_next ..).1 h
    cases h
    simp [actAssertStart, actClearStartSI, actAssertStop, actAssertAck, actAssertNack, actClearSI, actWriteData, actReadData,
      actReadStatus, actInitClear, actInitEnable, actDivisorHigh, actDivisorLow]

/-- Every line of a command is such a step. -/
theorem command_next {i : Instr} {s t : State} (hc : i.isCommand = true) (h : exec i s = .next t) :
    ∃ es, ForegroundStep i s t es := by
  cases i with
  | init p =>
    obtain ⟨_, h⟩ := (withPort_next ..).1 h
    split at h <;> cases h
    · refine ⟨[.regWrite p .sclh s.params.clkHigh], ?_, ?_, ?_, ?_, ?_, ?_, ?_, ?_, ?_, ?_, ?_⟩ <;>
        simp +contextual [Instr.port, TraceEntry.port, actDivisorHigh, wordListed]
    · refine ⟨[.regWrite p .scll s.params.clkLow], ?_, ?_, ?_, ?_, ?_, ?_, ?_, ?_, ?_, ?_, ?_⟩ <;>
        simp +contextual [Instr.port, TraceEntry.port, actDivisorLow, wordListed]
    · split
      · refine ⟨[.regWrite p .conset s.params.flag.enable], ?_, ?_, ?_, ?_, ?_, ?_, ?_, ?_, ?_, ?_, ?_⟩ <;>
          simp +contextual [Instr.port, TraceEntry.port, actInitEnable, wordListed]
      · refine ⟨[], ?_, ?_, ?_, ?_, ?_, ?_, ?_, ?_, ?_, ?_, ?_⟩ <;>
          simp +contextual [Instr.port, TraceEntry.port]
    · rename_i e
      refine ⟨[.irqEn p], ?_, ?_, ?_, ?_, ?_, ?_, ?_, ?_, ?_, ?_, ?_⟩ <;>
        simp +contextual [Instr.port, TraceEntry.port, e]
    · rename_i e
      refine ⟨[], ?_, ?_, ?_, ?_, ?_, ?_, ?_, ?_, ?_, ?_, ?_⟩ <;>
        simp +contextual [Instr.port, TraceEntry.port, writesState, e]
    · refine ⟨[.regWrite p .conclr s.params.flag.initClear], ?_, ?_, ?_, ?_, ?_, ?_, ?_, ?_, ?_, ?_, ?_⟩ <;>
        simp +contextual [Instr.port, TraceEntry.port, actInitClear, wordListed, FlagMasks.initClear]
  | setHandler p k =>
    obtain ⟨_, h⟩ := (withPort_next ..).1 h
    cases h
    refine ⟨[], ?_, ?_, ?_, ?_, ?_, ?_, ?_, ?_, ?_, ?_, ?_⟩ <;>
      simp +contextual [Instr.port, TraceEntry.port]
  | getState p =>
    obtain ⟨_, h⟩ := (withPort_next ..).1 h
    cases h
    refine ⟨[], ?_, ?_, ?_, ?_, ?_, ?_, ?_, ?_, ?_, ?_, ?_⟩ <;>
      simp +contextual [Instr.port, TraceEntry.port]
  | start p =>
    obtain ⟨_, h⟩ := (withPort_next ..).1 h
    split at h <;> cases h
    case h_2 =>
      refine ⟨[.regWrite p .conset s.params.flag.start], ?_, ?_, ?_, ?_, ?_, ?_, ?_, ?_, ?_, ?_, ?_⟩ <;>
        simp +contextual [Instr.port, TraceEntry.port, actAssertStart, wordListed]
    case h_8 e =>
      refine ⟨[], ?_, ?_, ?_, ?_, ?_, ?_, ?_, ?_, ?_, ?_, ?_⟩ <;>
        simp +contextual [Instr.port, TraceEntry.port, writesState, e]
    case h_10 =>
      refine ⟨[], ?_, ?_, ?_, ?_, ?_, ?_, ?_, ?_, ?_, ?_, ?_⟩ <;> simp +contextual [Instr.port, writesState]
      grind
    all_goals
      refine ⟨[], ?_, ?_, ?_, ?_, ?_, ?_, ?_, ?_, ?_, ?_, ?_⟩ <;>
        simp +contextual [Instr.port, TraceEntry.port]
  | stop p =>
    obtain ⟨_, h⟩ := (withPort_next ..).1 h
    split at h <;> cases h
    case h_1 =>
      refine ⟨[.regWrite p .conset s.params.flag.stop], ?_, ?_, ?_, ?_, ?_, ?_, ?_, ?_, ?_, ?_, ?_⟩ <;>
        simp +contextual [Instr.port, TraceEntry.port, actAssertStop, wordListed]
    case h_2 =>
      split <;> refine ⟨[.regRead p .conset (s.port p).ctl], ?_, ?_, ?_, ?_, ?_, ?_, ?_, ?_, ?_, ?_, ?_⟩ <;>
        simp +contextual [Instr.port, TraceEntry.port, Port.readReg]
    case h_5 =>
      split <;> refine ⟨[], ?_, ?_, ?_, ?_, ?_, ?_, ?_, ?_, ?_, ?_, ?_⟩ <;>
        simp +contextual [Instr.port, TraceEntry.port]
    all_goals
      refine ⟨[], ?_, ?_, ?_, ?_, ?_, ?_, ?_, ?_, ?_, ?_, ?_⟩ <;>
        simp +contextual [Instr.port, TraceEntry.port]
  | engine p =>
    obtain ⟨_, h⟩ := (withPort_next ..).1 h
    split at h <;> cases h
    case h_2 =>
      refine ⟨[.regWrite p .conset s.params.flag.start], ?_, ?_, ?_, ?_, ?_, ?_, ?_, ?_, ?_, ?_, ?_⟩ <;>
        simp +contextual [Instr.port, TraceEntry.port, actAssertStart, wordListed]
    case h_7 e =>
      refine ⟨[], ?_, ?_, ?_, ?_, ?_, ?_, ?_, ?_, ?_, ?_, ?_⟩ <;>
        simp +contextual [Instr.port, TraceEntry.port, writesState, e]
    case h_9 =>
      unfold engineReturn
      split <;> refine ⟨[], ?_, ?_, ?_, ?_, ?_, ?_, ?_, ?_, ?_, ?_, ?_⟩ <;>
        simp +contextual [Instr.port, TraceEntry.port]
    case h_10 =>
      refine ⟨[], ?_, ?_, ?_, ?_, ?_, ?_, ?_, ?_, ?_, ?_, ?_⟩ <;> simp +contextual [Instr.port, writesState]
      grind
    all_goals
      refine ⟨[], ?_, ?_, ?_, ?_, ?_, ?_, ?_, ?_, ?_, ?_, ?_⟩ <;>
        simp +contextual [Instr.port, TraceEntry.port]
  | write p a d n =>
    obtain ⟨_, h⟩ := (withPort_next ..).1 h
    obtain ⟨_, h⟩ := (withArray_next ..).1 h
    split at h
    case h_1 =>
      obtain ⟨_, h⟩ := (txPut_next ..).1 h
      cases h
      refine ⟨[], ?_, ?_, ?_, ?_, ?_, ?_, ?_, ?_, ?_, ?_, ?_⟩ <;>
        simp +contextual [Instr.port, TraceEntry.port]
    case h_2 =>
      split at h
      · obtain ⟨_, h⟩ := (txPut_next ..).1 h
        cases h
        refine ⟨[], ?_, ?_, ?_, ?_, ?_, ?_, ?_, ?_, ?_, ?_, ?_⟩ <;>
          simp +contextual [Instr.port, TraceEntry.port]
      · cases h
        refine ⟨[], ?_, ?_, ?_, ?_, ?_, ?_, ?_, ?_, ?_, ?_, ?_⟩ <;>
          simp +contextual [Instr.port, TraceEntry.port]
    case h_7 =>
      split at h <;> cases h <;> refine ⟨[], ?_, ?_, ?_, ?_, ?_, ?_, ?_, ?_, ?_, ?_, ?_⟩ <;>
        simp +contextual [Instr.port, TraceEntry.port]
    all_goals
      cases h
      refine ⟨[], ?_, ?_, ?_, ?_, ?_, ?_, ?_, ?_, ?_, ?_, ?_⟩ <;>
        simp +contextual [Instr.port, TraceEntry.port]
  | read p a d n o nr =>
    obtain ⟨_, h⟩ := (withPort_next ..).1 h
    obtain ⟨_, h⟩ := (withArray_next ..).1 h
    obtain ⟨_, h⟩ := (withArray_next ..).1 h
    obtain ⟨_, h⟩ := (withCapacity_next ..).1 h
    split at h
    case h_1 =>
      obtain ⟨_, h⟩ := (txPut_next ..).1 h
      cases h
      refine ⟨[], ?_, ?_, ?_, ?_, ?_, ?_, ?_, ?_, ?_, ?_, ?_⟩ <;>
        simp +contextual [Instr.port, TraceEntry.port]
    case h_2 =>
      split at h <;> obtain ⟨_, h⟩ := (txPut_next ..).1 h <;> cases h <;> refine ⟨[], ?_, ?_, ?_, ?_, ?_, ?_, ?_, ?_, ?_, ?_, ?_⟩ <;>
        simp +contextual [Instr.port, TraceEntry.port]
    case h_3 =>
      obtain ⟨_, h⟩ := (txPut_next ..).1 h
      cases h
      refine ⟨[], ?_, ?_, ?_, ?_, ?_, ?_, ?_, ?_, ?_, ?_, ?_⟩ <;>
        simp +contextual [Instr.port, TraceEntry.port]
    case h_7 =>
      split at h
      · obtain ⟨b, _, h⟩ := (rxFetch_next ..).1 h
        cases h
        refine ⟨[], ?_, ?_, ?_, ?_, ?_, ?_, ?_, ?_, ?_, ?_, ?_⟩ <;>
          simp +contextual [Instr.port, TraceEntry.port]
      · cases h
        refine ⟨[], ?_, ?_, ?_, ?_, ?_, ?_, ?_, ?_, ?_, ?_, ?_⟩ <;>
          simp +contextual [Instr.port, TraceEntry.port]
    all_goals
      cases h
      refine ⟨[], ?_, ?_, ?_, ?_, ?_, ?_, ?_, ?_, ?_, ?_, ?_⟩ <;>
        simp +contextual [Instr.port, TraceEntry.port]
  | evStart _ | evRstart _ | evSlawAck _ | evAddrNackWrite _ | evTxdataAck _ | evTxdataNack _ | evArbLost _ | evSlarAck _
  | evAddrNackRead _ | evRxdataAck _ | evRxdataNack _ | evUnrecognised _ _ => cases hc
  | assertStart _ | clearStartSI _ | assertStop _ | assertAck _ | assertNack _ | clearSI _ | writeData _ _ | readData _
  | readStatus _ | initClear _ | initEnable _ | initDivisors _ => cases hc

/-- Every instruction that is no event is such a step. -/
theorem foreground_next {i : Instr} {s t : State} (he : i.isEvent = false) (h : exec i s = .next t) :
    ∃ es, ForegroundStep i s t es := by
  cases hc : i.isCommand with
  | false => exact action_next hc he h
  | true => exact command_next hc h

/-! ### What kind of instruction a code decodes to -/

theorem classify_isEvent (c : StatusCodes) (p : PortId) (b : Byte) : (classify c p b).isEvent = true := by
  unfold classify
  repeat' split
  all_goals rfl

theorem classify_port (c : StatusCodes) (p : PortId) (b : Byte) : (classify c p b).port = p := by
  unfold classify
  repeat' split
  all_goals rfl

theorem decodeRequest_isCommand {P : Params} {r : Request} {i : Instr} (h : decodeRequest P r = .ok i) :
    i.isCommand = true := by
  unfold decodeRequest commandOf at h
  repeat' split at h
  all_goals cases h
  all_goals rfl

theorem decodeConset_kind {f : FlagMasks} {p : PortId} {w : Word} {i : Instr} (h : decodeConset f p w = .ok i) :
    i.isEvent = false ∧ i.isCommand = false := by
  unfold decodeConset at h
  repeat' split at h
  all_goals first | (cases h; exact ⟨rfl, rfl⟩) | cases h

theorem decodeConclr_kind {f : FlagMasks} {p : PortId} {w : Word} {i : Instr} (h : decodeConclr f p w = .ok i) :
    i.isEvent = false ∧ i.isCommand = false := by
  unfold decodeConclr at h
  repeat' split at h
  all_goals first | (cases h; exact ⟨rfl, rfl⟩) | cases h

theorem decodeAccess_kind {P : Params} {p : PortId} {l : List Access} {i : Instr} (h : decodeAccess P p l = .ok i) :
    i.isEvent = false ∧ i.isCommand = false := by
  unfold decodeAccess at h
  split at h
  · unfold decodeOne at h
    split at h
    case h_1 => exact decodeConset_kind h
    case h_2 => exact decodeConclr_kind h
    case h_3 => split at h <;> cases h; exact ⟨rfl, rfl⟩
    all_goals first | (cases h; exact ⟨rfl, rfl⟩) | cases h
  · split at h <;> cases h
    exact ⟨rfl, rfl⟩
  · cases h

theorem runCode_next {c : Code} {s t : State} : runCode c s = .next t ↔ ∃ i, decode s.params c = .ok i ∧ exec i s = .next t := by
  unfold runCode
  split <;> simp_all

end Sys2Proof.Machine
end

