-- ==== Sys2Proof/Laws/PerInstr.lean ====
section
/-! SUPPORT. Statements about every instruction as syntax, one lemma per constructor. Family CodePort: the code an instruction is
encoded to names the port the instruction names (R55, R65; R19: each access is tagged with its port), and every instruction but
ENGINE has a code (R65). -/

namespace Sys2Proof.Laws.CodePort

/-- The number of the port a code names: the port of the interrupt, the header's bits 1:0, or the port of the accesses. -/
def codePort : Code → Nat
  | .status p _ => p.index
  | .command r => headerPort r.header
  | .access p _ => p.index

/-- The header of every command carries its port (R55, R65). -/
theorem headerPort_header {op : Nat} (h : op < 7) (p : PortId) : headerPort (header op p) = p.index := by
  interval_cases op <;> cases p <;> rfl

/-- The code of `i`, for every value of the parameters, names the port of `i`; only ENGINE has none. -/
def Statement (i : Instr) : Prop :=
  ∀ P : Params,
    match encode P i with
    | some c => codePort c = i.port.index
    | none => i = .engine i.port

theorem evStart (p : PortId) : Statement (.evStart p) := by intro P; rfl
theorem evRstart (p : PortId) : Statement (.evRstart p) := by intro P; rfl
theorem evSlawAck (p : PortId) : Statement (.evSlawAck p) := by intro P; rfl
theorem evAddrNackWrite (p : PortId) : Statement (.evAddrNackWrite p) := by intro P; rfl
theorem evTxdataAck (p : PortId) : Statement (.evTxdataAck p) := by intro P; rfl
theorem evTxdataNack (p : PortId) : Statement (.evTxdataNack p) := by intro P; rfl
theorem evArbLost (p : PortId) : Statement (.evArbLost p) := by intro P; rfl
theorem evSlarAck (p : PortId) : Statement (.evSlarAck p) := by intro P; rfl
theorem evAddrNackRead (p : PortId) : Statement (.evAddrNackRead p) := by intro P; rfl
theorem evRxdataAck (p : PortId) : Statement (.evRxdataAck p) := by intro P; rfl
theorem evRxdataNack (p : PortId) : Statement (.evRxdataNack p) := by intro P; rfl
theorem evUnrecognised (p : PortId) (b : Byte) : Statement (.evUnrecognised p b) := by intro P; rfl
theorem init (p : PortId) : Statement (.init p) := by exact fun _ => headerPort_header (by decide) p
theorem setHandler (p : PortId) (h : Option Handle) : Statement (.setHandler p h) := by exact fun _ => headerPort_header (by decide) p
theorem write (p : PortId) (a : Nat) (data : HostArray) (size : Nat) : Statement (.write p a data size) := by exact fun _ => headerPort_header (by decide) p
theorem read (p : PortId) (a : Nat) (txData : HostArray) (nw : Nat) (out : HostArray) (nr : Nat) : Statement (.read p a txData nw out nr) := by exact fun _ => headerPort_header (by decide) p
theorem start (p : PortId) : Statement (.start p) := by exact fun _ => headerPort_header (by decide) p
theorem stop (p : PortId) : Statement (.stop p) := by exact fun _ => headerPort_header (by decide) p
theorem getState (p : PortId) : Statement (.getState p) := by exact fun _ => headerPort_header (by decide) p
theorem engine (p : PortId) : Statement (.engine p) := by intro P; rfl
theorem assertStart (p : PortId) : Statement (.assertStart p) := by intro P; rfl
theorem clearStartSI (p : PortId) : Statement (.clearStartSI p) := by intro P; rfl
theorem assertStop (p : PortId) : Statement (.assertStop p) := by intro P; rfl
theorem assertAck (p : PortId) : Statement (.assertAck p) := by intro P; rfl
theorem assertNack (p : PortId) : Statement (.assertNack p) := by intro P; rfl
theorem clearSI (p : PortId) : Statement (.clearSI p) := by intro P; rfl
theorem writeData (p : PortId) (b : Byte) : Statement (.writeData p b) := by intro P; rfl
theorem readData (p : PortId) : Statement (.readData p) := by intro P; rfl
theorem readStatus (p : PortId) : Statement (.readStatus p) := by intro P; rfl
theorem initClear (p : PortId) : Statement (.initClear p) := by intro P; rfl
theorem initEnable (p : PortId) : Statement (.initEnable p) := by intro P; rfl
theorem initDivisors (p : PortId) : Statement (.initDivisors p) := by intro P; rfl

end Sys2Proof.Laws.CodePort
end

