-- ==== Sys2Proof/Laws/Steps.lean ====
section
/-! SUPPORT. What a step can do, said once: which instruction it runs and from which state, or that the turn was one of the outside
world's. Statements about every step are proved by cases on `step_runs`. -/

namespace Sys2Proof.Machine

/-- A step in which the block does nothing: of the ports only what the bus controller moves may change (R32, R42), of the rest only
host memory, the host's queue and the turns to come. -/
structure OutsideStep (s t : State) : Prop where
  params : t.params = s.params
  cu : t.cu = s.cu
  tmo : t.tmo = s.tmo
  resp : t.resp = s.resp
  trace : t.trace = s.trace
  body : t.body = s.body
  inject : t.inject = s.inject
  hostMem : Memory.wf s.hostMem → Memory.wf t.hostMem
  port : ∀ p, t.port p = { s.port p with ctl := (t.port p).ctl, stat := (t.port p).stat, dat := (t.port p).dat }

/-- The forms a step takes, `l` the agenda and `n` the draws it leaves to the instruction or to the outside world: an enabled event (R80,
R122), the next line of a command, an accepted request (R110), an injected action (log 3), a refused code (R66), or a move of the
outside world. -/
inductive StepRuns (s : State) (l : List Turn) (n : Nat) : Result → Prop where
  | event (p : PortId) (hung : s.body.hung = none) (enabled : eventEnabled p s = true) :
      StepRuns s l n (exec (classify s.params.sc p (lowByte (s.port p).stat))
        (actReadStatus p { s with agenda := l, draws := n }))
  | line (i : Instr) (hung : s.body.hung = none) (cur : s.cu.cur = some i) :
      StepRuns s l n (exec i { s with agenda := l, draws := n })
  | accept (r : Request) (m : List Request) (i : Instr) (hung : s.body.hung = none) (cur : s.cu.cur = none)
      (head : s.requests = r :: m) (code : decode s.params (.command r) = .ok i) :
      StepRuns s l n (exec i { s with agenda := l, draws := n, requests := m, cu := .idle })
  | injected (p : PortId) (a : List Access) (i : Instr) (slot : s.inject = some (p, a))
      (code : decode s.params (.access p a) = .ok i) :
      StepRuns s l n (exec i { s with agenda := l, draws := n, inject := none })
  | undecodable (r : Reject) : StepRuns s l n (.refused (.undecodable r))
  | outside (t : State) (h : OutsideStep s t) (agenda : t.agenda = l) (draws : t.draws = n) : StepRuns s l n (.next t)

/-- A step whose change is of the turns alone. -/
theorem outsideStep_turns (s : State) (l : List Turn) (n : Nat) : OutsideStep s { s with agenda := l, draws := n } :=
  ⟨rfl, rfl, rfl, rfl, rfl, rfl, rfl, id, fun p => by cases p <;> rfl⟩

theorem outsideStep_bus {s t : State} {p : PortId} {f : Port → Port} (h : OutsideStep s t)
    (hf : ∀ x, f x = { x with ctl := (f x).ctl, stat := (f x).stat, dat := (f x).dat }) : OutsideStep s (t.modPort p f) := by
  obtain ⟨a, b, c, d, e, g, i, j, k⟩ := h
  refine ⟨by simp [a], by simp [b], by simp [c], by simp [d], by simp [e], by simp [g], by simp [i], by simpa using j, fun q => ?_⟩
  have k := k q
  by_cases hq : q = p
  · subst hq
    rw [modPort_port_same]
    generalize s.port q = x at k ⊢
    generalize t.port q = y at k ⊢
    have h := hf y
    generalize f y = z at h ⊢
    cases x; cases y; cases z
    simp_all
  · rw [modPort_port_ne _ _ _ _ hq]
    exact k

theorem runCode_runs {c : Code} (s : State) :
    (∃ i, decode s.params c = .ok i ∧ runCode c s = exec i s) ∨ ∃ r, runCode c s = .refused (.undecodable r) := by
  unfold runCode
  split
  · exact .inl ⟨_, ‹_›, rfl⟩
  · exact .inr ⟨_, rfl⟩

/-- Whatever a turn answers is one of the forms. -/
theorem takeTurn_runs (s : State) (u : Turn) (l : List Turn) (n : Nat) :
    StepRuns s l n (takeTurn u { s with agenda := l, draws := n }) := by
  have idle : StepRuns s l n (.next { s with agenda := l, draws := n }) := .outside _ (outsideStep_turns s l n) rfl rfl
  have bus (p : PortId) (f : Port → Port) (hf : ∀ x, f x = { x with ctl := (f x).ctl, stat := (f x).stat, dat := (f x).dat }) :
      StepRuns s l n (.next (({ s with agenda := l, draws := n } : State).modPort p f)) :=
    .outside _ (outsideStep_bus (outsideStep_turns s l n) hf) (modPort_agenda ..) (modPort_draws ..)
  cases u with
  | command =>
    show StepRuns s l n (unlessHung _ (commandTurn _))
    unfold unlessHung
    split
    · rename_i hung
      rcases commandTurn_cases { s with agenda := l, draws := n } with ⟨i, hc, h⟩ | ⟨_, _, h⟩ | ⟨r, m, hc, hr, h⟩
      · rw [h]; exact .line i hung hc
      · rw [h]; exact idle
      · rw [h]
        rcases runCode_runs (c := .command r) { s with agenda := l, draws := n, requests := m, cu := .idle } with
          ⟨i, hd, h⟩ | ⟨e, h⟩
        · rw [h]; exact .accept r m i hung hc hr hd
        · rw [h]; exact .undecodable e
    · exact idle
  | event p =>
    show StepRuns s l n (unlessHung _ (eventTurn p _))
    unfold unlessHung eventTurn
    split
    · rename_i hung
      split
      · rename_i en
        rw [handleInterrupt_eq]
        have hp : ({ s with agenda := l, draws := n } : State).port p = s.port p := by cases p <;> rfl
        rw [hp]
        exact .event p hung (by simpa [eventEnabled, hp] using en)
      · exact idle
    · exact idle
  | raise p w =>
    show StepRuns s l n (.next (busRaise p w _))
    unfold busRaise
    split
    · exact bus p _ fun _ => rfl
    · exact idle
  | load p w => exact bus p _ fun _ => rfl
  | stopSent p => exact bus p _ fun _ => rfl
  | host r => exact .outside _ ⟨rfl, rfl, rfl, rfl, rfl, rfl, rfl, id, fun p => by cases p <;> rfl⟩ rfl rfl
  | hostStore a b =>
    exact .outside _ ⟨rfl, rfl, rfl, rfl, rfl, rfl, rfl, fun h => memory_write_wf h _ _, fun p => by cases p <;> rfl⟩ rfl rfl

/-- With an action injected a step runs it and leaves the agenda. -/
theorem step_runs_injected {s : State} {p : PortId} {a : List Access} (hi : s.inject = some (p, a)) :
    StepRuns s s.agenda s.draws (step s) := by
  have h : step s = runCode (.access p a) { s with inject := none } := by simp [step, nextTurn, hi, runInjected]
  rw [h]
  rcases runCode_runs (c := .access p a) { s with inject := none } with ⟨i, hd, h⟩ | ⟨e, h⟩
  · rw [h]; exact .injected p a i hi hd
  · rw [h]; exact .undecodable e

/-- Otherwise it takes the oldest turn of the filled agenda. -/
theorem step_eq_takeTurn {s : State} {u : Turn} {l : List Turn} (hi : s.inject = none) (h : s.schedule.agenda = u :: l) :
    step s = takeTurn u { s with agenda := l, draws := s.schedule.draws } := by
  rw [step, nextTurn, hi]
  show takeOldest s.schedule = _
  rw [takeOldest, h]
  refine congrArg (takeTurn u) ?_
  cases ha : s.agenda <;> simp [State.schedule, ha, hi]

/-- Whatever a step answers is one of the forms. -/
theorem step_runs (s : State) : ∃ l n, StepRuns s l n (step s) := by
  cases hi : s.inject with
  | some q => exact ⟨_, _, step_runs_injected hi⟩
  | none =>
    cases h : s.schedule.agenda with
    | nil => exact absurd h (schedule_agenda_ne s)
    | cons u l => exact ⟨l, _, step_eq_takeTurn hi h ▸ takeTurn_runs s u l _⟩

end Sys2Proof.Machine
end

