-- ==== Sys2Proof/Tests/Slice0.lean ====
section
/-! SUPPORT. The model's own tests. Expected results come from the tables and vectors of spec/ (30_encoding.md, 95_test_vectors.md), named
at each test; each is about one step or one word. The last part shows, for each statement with hypotheses, a state that meets them. -/

namespace Sys2Proof.Tests

open Sys2Proof.Machine

/-! ### A small machine -/

/-- The parameters of 95_test_vectors.md, with divisor words to tell apart. -/
def params : Params := { Params.default with clkHigh := 0x3C, clkLow := 0x3D }

/-- After reset, with zeros in the buffers. -/
def fresh : State := .resetWith params (fun _ _ => 0) (fun _ _ => 0)

/-- Port 0 initialised, with callback 7 registered. -/
def ready : State := fresh.modPort .p0 fun x => { x with irqEn := true, cb := some 7, ctl := 0x40 }

/-- Port 0 of `ready`, changed. -/
def on0 (f : Port → Port) : State := ready.modPort .p0 f

/-- `s` with a status word presented on port 0 and its event step dispatched next. -/
def irq0 (w : Word) (s : State) : State :=
  { s.modPort .p0 fun x => { x with stat := w, ctl := x.ctl ||| 0x08 } with agenda := [.event .p0] }

/-- `s` with a command at one of its lines and the command unit's turn next. -/
def atLine (i : Instr) (n : Nat) (s : State) : State :=
  { s with cu := { CommandUnit.idle with cur := some i, line := n }, agenda := [.command] }

/-- What a next state shows. -/
def shows {α : Type} (r : Result) (v : State → α) : Option α :=
  match r with
  | .next t => some (v t)
  | _ => none

/-- The callbacks in a trace. -/
def callbacks (l : List TraceEntry) : List (PortId × Handle) :=
  l.filterMap fun e =>
    match e with
    | .cb p h => some (p, h)
    | _ => none

/-- What an event of port 0 did. -/
structure EventView where
  writes : List (PortId × WriteReg × Word)
  callbacks : List (PortId × Handle)
  state : TxState
  txcur : Nat
  rxcur : Nat
  deriving DecidableEq, Repr

def eventView (t : State) : EventView :=
  { writes := regWrites t.trace
    callbacks := callbacks t.trace
    state := (t.port .p0).state
    txcur := (t.port .p0).txcur
    rxcur := (t.port .p0).rxcur }

/-- What an overrun shows: the access, and the port and the trace when it was made. -/
def overrun (r : Result) : Option (PortId × Buffer × Nat × Port × List TraceEntry) :=
  match r with
  | .fault (.bufferOverrun p which index t) => some (p, which, index, t.port p, t.trace)
  | _ => none

def refusalOf (r : Result) : Option Refusal :=
  match r with
  | .refused f => some f
  | _ => none

/-! ### Well-formedness: a term each check refuses -/

theorem test_wf_good : (Instr.write .p1 0x51 ⟨64, 1⟩ 1).wf params = true := by decide
/-- R4, V-IN-4: port 2 with NPORTS = 2. -/
theorem test_wf_port : (Instr.init .p2).wf params = false := by decide
/-- R53, V-WR-6. -/
theorem test_wf_array : (Instr.write .p0 0x50 ⟨64, 1⟩ 2).wf params = false := by decide
/-- R103 line 0, V-RD-4. -/
theorem test_wf_capacity : (Instr.read .p0 0x50 ⟨0, 7⟩ 7 ⟨64, 1⟩ 1).wf params = false := by decide
/-- R59: 0x08 is a named code. -/
theorem test_wf_unnamed : (Instr.evUnrecognised .p0 0x08).wf params = false := by decide

/-! ### Decoding: the words of 30_encoding.md and opcode_table.json, and the section 3.2 of 95_test_vectors.md -/

theorem test_decode_evStart : decode params (.status .p0 0x00000008) = .ok (.evStart .p0) := by decide
theorem test_decode_evRstart : decode params (.status .p0 0x00000010) = .ok (.evRstart .p0) := by decide
theorem test_decode_evSlawAck : decode params (.status .p0 0x00000018) = .ok (.evSlawAck .p0) := by decide
theorem test_decode_evAddrNackWrite : decode params (.status .p0 0x00000020) = .ok (.evAddrNackWrite .p0) := by decide
theorem test_decode_evTxdataAck : decode params (.status .p0 0x00000028) = .ok (.evTxdataAck .p0) := by decide
theorem test_decode_evTxdataNack : decode params (.status .p0 0x00000030) = .ok (.evTxdataNack .p0) := by decide
theorem test_decode_evArbLost : decode params (.status .p1 0x00000038) = .ok (.evArbLost .p1) := by decide
theorem test_decode_evSlarAck : decode params (.status .p0 0x00000040) = .ok (.evSlarAck .p0) := by decide
theorem test_decode_evAddrNackRead : decode params (.status .p0 0x00000048) = .ok (.evAddrNackRead .p0) := by decide
theorem test_decode_evRxdataAck : decode params (.status .p0 0x00000050) = .ok (.evRxdataAck .p0) := by decide
theorem test_decode_evRxdataNack : decode params (.status .p0 0x00000058) = .ok (.evRxdataNack .p0) := by decide
theorem test_decode_evUnrecognised : decode params (.status .p0 0x00000009) = .ok (.evUnrecognised .p0 0x09) := by decide
/-- R67: bits 31:8 of the status register do not count. -/
theorem test_decode_upperBits : decode params (.status .p0 0xFFFFFF08) = .ok (.evStart .p0) := by decide
theorem test_decode_init : decode params (.command ⟨0x01, {}⟩) = .ok (.init .p1) := by decide
theorem test_decode_setHandler : decode params (.command ⟨0x10, { handle := some 7 }⟩) = .ok (.setHandler .p0 (some 7)) := by
  decide
theorem test_decode_write :
    decode params (.command ⟨0x21, { addr := 0x51, src := ⟨64, 1⟩, srcSize := 1 }⟩) = .ok (.write .p1 0x51 ⟨64, 1⟩ 1) := by
  decide
theorem test_decode_read :
    decode params (.command ⟨0x30, { addr := 0x50, src := ⟨64, 1⟩, srcSize := 1, out := ⟨80, 2⟩, outSize := 2 }⟩) =
      .ok (.read .p0 0x50 ⟨64, 1⟩ 1 ⟨80, 2⟩ 2) := by decide
theorem test_decode_start : decode params (.command ⟨0x40, {}⟩) = .ok (.start .p0) := by decide
theorem test_decode_stop : decode params (.command ⟨0x51, {}⟩) = .ok (.stop .p1) := by decide
theorem test_decode_getState : decode params (.command ⟨0x60, {}⟩) = .ok (.getState .p0) := by decide
/-- R65: ENGINE has no opcode; opcodes 7 to 15 are refused (V-OP-1). -/
theorem test_decode_reserved : decode params (.command ⟨0x70, {}⟩) = .error (.reservedOpcode 7) := by decide
/-- V-OP-2. -/
theorem test_decode_zeroBits : decode params (.command ⟨0x24, {}⟩) = .error .nonzeroHeaderBits := by decide
/-- V-IN-4: port 2 with NPORTS = 2; port 3 never exists. -/
theorem test_decode_port2 : decode params (.command ⟨0x02, {}⟩) = .error (.noSuchPort 2) := by decide
theorem test_decode_port3 : decode params (.command ⟨0x03, {}⟩) = .error (.noSuchPort 3) := by decide
theorem test_decode_assertStart : decode params (.access .p0 [.write .conset 0x20]) = .ok (.assertStart .p0) := by decide
theorem test_decode_clearStartSI : decode params (.access .p0 [.write .conclr 0x28]) = .ok (.clearStartSI .p0) := by decide
theorem test_decode_assertStop : decode params (.access .p0 [.write .conset 0x10]) = .ok (.assertStop .p0) := by decide
theorem test_decode_assertAck : decode params (.access .p0 [.write .conset 0x04]) = .ok (.assertAck .p0) := by decide
theorem test_decode_assertNack : decode params (.access .p0 [.write .conclr 0x04]) = .ok (.assertNack .p0) := by decide
theorem test_decode_clearSI : decode params (.access .p0 [.write .conclr 0x08]) = .ok (.clearSI .p0) := by decide
theorem test_decode_writeData : decode params (.access .p0 [.write .dat 0xA5]) = .ok (.writeData .p0 0xA5) := by decide
theorem test_decode_readData : decode params (.access .p0 [.read .dat]) = .ok (.readData .p0) := by decide
theorem test_decode_readStatus : decode params (.access .p0 [.read .stat]) = .ok (.readStatus .p0) := by decide
theorem test_decode_initClear : decode params (.access .p0 [.write .conclr 0x6C]) = .ok (.initClear .p0) := by decide
theorem test_decode_initEnable : decode params (.access .p0 [.write .conset 0x40]) = .ok (.initEnable .p0) := by decide
theorem test_decode_initDivisors :
    decode params (.access .p0 [.write .sclh 0x3C, .write .scll 0x3D]) = .ok (.initDivisors .p0) := by decide
/-- R61: no other word is written to CONSET; R67: DAT words have zeros above bit 7. -/
theorem test_decode_noAction :
    decode params (.access .p0 [.write .conset 0x08]) = .error .notAnAction ∧
      decode params (.access .p0 [.write .dat 0x100]) = .error .notAnAction := by decide

/-! ### Table words: each row's word as the first instruction after reset -/

/-- 8-bit rows that collide with no status code, and the two 32-bit rows of one word (log 9). -/
theorem test_table_words :
    decodeTableWord 8 0x08 = some (.evStart .p0) ∧ decodeTableWord 8 0x00 = some (.init .p0) ∧
      decodeTableWord 8 0x60 = some (.getState .p0) ∧ decodeTableWord 8 0xF8 = some (.evUnrecognised .p0 0xF8) ∧
      decodeTableWord 32 0x28 = some (.clearStartSI .p0) ∧ decodeTableWord 32 0xA5 = some (.writeData .p0 0xA5) := by decide

/-- An event word put where the next step finds it runs after reset: EV_TXDATA_NACK. -/
theorem test_fetch_event :
    shows (step (State.reset.withFetchWord 8 0x30)) (fun t => (t.port .p0).state) = some .nackOnData := by decide

/-- A command word runs after reset: V-GS-1, GET_STATE responds IDLE. -/
theorem test_fetch_command :
    shows (step (State.reset.withFetchWord 8 0x60)) (fun t => t.resp) = some (some (.state .idle)) := by decide

/-- An action word runs after reset: AssertStart. -/
theorem test_fetch_action :
    shows (step (State.reset.withFetchWord 32 0x20)) (fun t => regWrites t.trace) = some [(.p0, .conset, 0x20)] := by decide

/-! ### Address bytes (section 3.1) -/

theorem test_addrByte : addrByte 0x50 false = 0xA0 ∧ addrByte 0x68 true = 0xD1 := by decide
theorem test_addrByte_cut : addrByte 0x80 false = 0x00 ∧ addrByte 0xD0 true = 0xA1 := by decide

/-! ### State codes (R56) -/

theorem test_stateCodes :
    [TxState.idle, .started, .restarted, .busy, .dataAck, .dataNack, .nackOnAddress, .nackOnData, .arbitrationLost, .timeOut,
      .ok].map TxState.code = [0, 1, 2, 3, 4, 5, 6, 7, 8, 9, 10] := by decide

/-! ### Events (section 3.3) -/

/-- V-EV-1. -/
theorem test_evStart :
    shows (step (irq0 0x08 (on0 fun x => { x with txbuf := [0xA0, 0xA5, 0x3C, 0, 0, 0, 0, 0], txcur := 7 }))) eventView =
      some ⟨[(.p0, .dat, 0xA0), (.p0, .conclr, 0x28)], [], .started, 1, 0⟩ := by decide
/-- V-EV-29. -/
theorem test_evStart_afterTimeout :
    shows (step (irq0 0x08 (on0 fun x => { x with state := .timeOut }))) eventView =
      some ⟨[(.p0, .dat, 0x00), (.p0, .conclr, 0x28)], [], .started, 1, 0⟩ := by decide
/-- V-EV-2. -/
theorem test_evRstart :
    shows (step (irq0 0x10 (on0 fun x =>
      { x with txbuf := [0xA0, 0x10, 0xA1, 0, 0, 0, 0, 0], txlen := 2, txcur := 2, rxcur := 5 }))) eventView =
      some ⟨[(.p0, .dat, 0xA1), (.p0, .conclr, 0x28)], [], .restarted, 2, 0⟩ := by decide
/-- V-EV-3: `rxcur = 0`, then the fault, and no accesses but the read of STAT. -/
theorem test_evRstart_overrun :
    let s := irq0 0x10 (on0 fun x => { x with txlen := 8, rxcur := 5 })
    overrun (step s) = some (.p0, .tx, 8, { s.port .p0 with rxcur := 0 }, [.regRead .p0 .stat 0x10]) := by decide
/-- V-EV-4. -/
theorem test_evSlawAck_sends :
    shows (step (irq0 0x18 (on0 fun x =>
      { x with txbuf := [0xA0, 0xA5, 0x3C, 0, 0, 0, 0, 0], txlen := 3, txcur := 1, state := .started }))) eventView =
      some ⟨[(.p0, .dat, 0xA5), (.p0, .conclr, 0x08)], [], .started, 2, 0⟩ := by decide
/-- V-EV-6. -/
theorem test_evSlawAck_stops :
    shows (step (irq0 0x18 (on0 fun x => { x with txlen := 1, txcur := 1, rxreq := 4 }))) eventView =
      some ⟨[(.p0, .conset, 0x10), (.p0, .conclr, 0x08)], [(.p0, 7)], .ok, 1, 0⟩ := by decide
/-- V-EV-8. -/
theorem test_evTxdataAck_restarts :
    shows (step (irq0 0x28 (on0 fun x => { x with txlen := 2, txcur := 2, rxreq := 2, state := .started }))) eventView =
      some ⟨[(.p0, .conset, 0x20), (.p0, .conclr, 0x08)], [], .started, 2, 0⟩ := by decide
/-- V-EV-10. -/
theorem test_evTxdataAck_ends :
    shows (step (irq0 0x28 (on0 fun x => { x with txlen := 0, txcur := 1, rxreq := 0 }))) eventView =
      some ⟨[(.p0, .conset, 0x10), (.p0, .conclr, 0x08)], [(.p0, 7)], .ok, 1, 0⟩ := by decide
/-- V-EV-11. -/
theorem test_evTxdataNack :
    shows (step (irq0 0x30 ready)) eventView =
      some ⟨[(.p0, .conset, 0x10), (.p0, .conclr, 0x08)], [(.p0, 7)], .nackOnData, 0, 0⟩ := by decide
/-- V-EV-30. -/
theorem test_evTxdataNack_noCallback :
    shows (step (irq0 0x30 (on0 fun x => { x with cb := none }))) eventView =
      some ⟨[(.p0, .conset, 0x10), (.p0, .conclr, 0x08)], [], .nackOnData, 0, 0⟩ := by decide
/-- V-EV-12. -/
theorem test_evAddrNackWrite :
    shows (step (irq0 0x20 ready)) eventView =
      some ⟨[(.p0, .conset, 0x10), (.p0, .conclr, 0x08)], [(.p0, 7)], .nackOnAddress, 0, 0⟩ := by decide
/-- V-EV-13. -/
theorem test_evAddrNackRead :
    shows (step (irq0 0x48 ready)) eventView =
      some ⟨[(.p0, .conset, 0x10), (.p0, .conclr, 0x08)], [(.p0, 7)], .nackOnAddress, 0, 0⟩ := by decide
/-- V-EV-15. -/
theorem test_evSlarAck_two :
    shows (step (irq0 0x40 (on0 fun x => { x with rxreq := 2 }))) eventView =
      some ⟨[(.p0, .conset, 0x04), (.p0, .conclr, 0x08)], [], .idle, 0, 0⟩ := by decide
/-- V-EV-16. -/
theorem test_evSlarAck_one :
    shows (step (irq0 0x40 (on0 fun x => { x with rxreq := 1 }))) eventView =
      some ⟨[(.p0, .conclr, 0x04), (.p0, .conclr, 0x08)], [], .idle, 0, 0⟩ := by decide
/-- V-EV-18, and the byte stored. -/
theorem test_evRxdataAck_more :
    shows (step (irq0 0x50 (on0 fun x => { x with rxreq := 3, dat := 0xFFFFFF11 })))
        (fun t => (eventView t, (t.port .p0).rxbuf)) =
      some (⟨[(.p0, .conset, 0x04), (.p0, .conclr, 0x08)], [], .idle, 0, 1⟩, [0x11, 0, 0, 0, 0, 0, 0, 0]) := by decide
/-- V-EV-22: the read of DAT has been made, and nothing has been written. -/
theorem test_evRxdataAck_overrun :
    let s := irq0 0x50 (on0 fun x => { x with rxcur := 8, dat := 0x99 })
    overrun (step s) = some (.p0, .rx, 8, s.port .p0, [.regRead .p0 .stat 0x50, .regRead .p0 .dat 0x99]) := by decide
/-- V-EV-23, and the byte stored. -/
theorem test_evRxdataNack :
    shows (step (irq0 0x58 (on0 fun x => { x with rxreq := 2, rxcur := 1, dat := 0xAD })))
        (fun t => (eventView t, (t.port .p0).rxbuf)) =
      some (⟨[(.p0, .conset, 0x10), (.p0, .conclr, 0x08)], [(.p0, 7)], .ok, 0, 2⟩, [0, 0xAD, 0, 0, 0, 0, 0, 0]) := by decide
/-- V-EV-25. -/
theorem test_evArbLost :
    shows (step (irq0 0x38 (on0 fun x => { x with state := .started }))) eventView =
      some ⟨[(.p0, .conclr, 0x08)], [], .started, 0, 0⟩ := by decide
/-- V-EV-26. -/
theorem test_evArbLost_setsState :
    shows (step (irq0 0x38 { ready with params := { params with arbLostSetsState := true } })) eventView =
      some ⟨[(.p0, .conclr, 0x08)], [(.p0, 7)], .arbitrationLost, 0, 0⟩ := by decide
/-- V-EV-27. -/
theorem test_evUnrecognised :
    shows (step (irq0 0x00 ready)) eventView = some ⟨[(.p0, .conclr, 0x08)], [], .idle, 0, 0⟩ := by decide
/-- R122: without irq_en the event step is not enabled. -/
theorem test_event_masked :
    shows (step (irq0 0x30 (on0 fun x => { x with irqEn := false }))) eventView = some ⟨[], [], .idle, 0, 0⟩ := by decide

/-- V-EV-11, R128: one callback registered, one invocation. -/
theorem test_event_invokesOnce : shows (step (irq0 0x30 ready)) (fun t => t.body.calls) = some 1 := by decide

/-- `s` with a callback of port 1 that has not returned. -/
def hung (s : State) : State := { s with body := { calls := 1, hung := some .p1 } }

/-- R156: while a callback has not returned no event step runs, on no port. -/
theorem test_hung_event : shows (step (hung (irq0 0x30 ready))) eventView = some ⟨[], [], .idle, 0, 0⟩ := by decide
/-- R156: nor a line of a command. -/
theorem test_hung_command :
    shows (step (hung (atLine (.engine .p0) 1 ready))) (fun t => ((t.port .p0).state, t.cu.line)) = some (.idle, 1) := by decide
/-- R124 (c): the bus controller goes on. -/
theorem test_hung_bus :
    shows (step (hung { ready with agenda := [.raise .p0 0x18] })) (fun t => ((t.port .p0).stat, (t.port .p0).ctl)) =
      some (0x18, 0x48) := by decide
/-- R166 (1), log 1: an agenda that has run out is filled again and ends with a turn of the command unit. -/
theorem test_schedule_ends_with_command : ready.schedule.agenda.getLast? = some .command := by
  rw [schedule_nil ready rfl]
  exact List.getLast?_concat

/-! ### Commands (sections 3.5 to 3.9) -/

/-- V-IN-1, first line. -/
theorem test_init_clears :
    shows (step (atLine (.init .p0) 0 (on0 fun x => { x with ctl := 0x7C })))
        (fun t => (regWrites t.trace, (t.port .p0).ctl, t.cu.line)) = some ([(.p0, .conclr, 0x6C)], 0x10, 2) := by decide
/-- V-IN-2: the switch takes line 4's write away. -/
theorem test_init_noEnable :
    shows (step (atLine (.init .p0) 4 { ready with params := { params with initSetsEnable := false } }))
        (fun t => (regWrites t.trace, t.cu.line)) = some ([], 5) := by decide
/-- V-SH-2. -/
theorem test_setHandler_null :
    shows (step (atLine (.setHandler .p0 none) 0 ready)) (fun t => ((t.port .p0).cb, t.resp, t.cu.cur)) =
      some (none, some .nothing, none) := by decide
/-- V-WR-3: `7 + 1 = CAP` is accepted; the last byte of the `for` line goes to index 7. -/
theorem test_write_lastByte :
    shows (step { atLine (.write .p0 0x7F ⟨64, 7⟩ 7) 3 { ready with hostMem := [(70, 0x07)] } with
        cu := { CommandUnit.idle with cur := some (.write .p0 0x7F ⟨64, 7⟩ 7), line := 3, idx := 6 } })
        (fun t => ((t.port .p0).txbuf, t.cu.idx)) = some ([0, 0, 0, 0, 0, 0, 0, 0x07], 7) := by decide
/-- V-WR-5. -/
theorem test_write_tooLong :
    shows (step (atLine (.write .p0 0x50 ⟨0, 1000000⟩ 1000000) 0 ready)) (fun t => (t.resp, t.port .p0 == ready.port .p0)) =
      some (some .rejected, true) := by decide
/-- V-RD-3: the read address goes to index 7. -/
theorem test_read_address :
    shows (step (atLine (.read .p0 0x50 ⟨0, 6⟩ 6 ⟨64, 8⟩ 8) 3 ready)) (fun t => (t.port .p0).txbuf) =
      some [0, 0, 0, 0, 0, 0, 0, 0xA1] := by decide
/-- V-RD-5. -/
theorem test_read_refused :
    refusalOf (step (atLine (.read .p0 0x50 ⟨0, 1⟩ 1 ⟨64, 9⟩ 9) 0 ready)) = some .readBeyondCapacity := by decide
/-- V-EN-7: the entry does not look at the old state. -/
theorem test_engine_entry :
    shows (step (atLine (.engine .p0) 1 (on0 fun x => { x with state := .nackOnData }))) (fun t => (t.port .p0).state) =
      some .busy := by decide
/-- V-EN-5: TIME_OUT overwrites a terminal state written during the last iteration. -/
theorem test_engine_race :
    shows (step (atLine (.engine .p0) 8 (on0 fun x => { x with state := .ok }))) (fun t => (t.port .p0).state) =
      some .timeOut := by decide
/-- V-GS-1. -/
theorem test_getState :
    shows (step (atLine (.getState .p0) 0 fresh)) (fun t => t.resp) = some (some (.state .idle)) := by decide
/-- V-ST-1: the wait ends when the state is no longer BUSY. -/
theorem test_start_responds :
    shows (step (atLine (.start .p0) 10 (on0 fun x => { x with state := .started }))) (fun t => t.resp) =
      some (some (.state .started)) := by decide
/-- V-STOP-1. -/
theorem test_stop_done :
    shows (step (atLine (.stop .p0) 3 ready)) (fun t => (t.resp, t.trace)) =
      some (some (.bit true), [.regRead .p0 .conset 0x40]) := by decide
/-- V-STOP-3: at the ceiling. -/
theorem test_stop_gaveUp :
    shows (step (atLine (.stop .p0) 6 { ready with tmo := 100 })) (fun t => t.resp) = some (some (.bit false)) := by decide

/-! ### Actions (R32 to R41) -/

/-- An action injected on port 0. -/
def inject0 (l : List Access) : State := { on0 (fun x => { x with ctl := 0x6C }) with inject := some (.p0, l) }

theorem test_assertStop : shows (step (inject0 [.write .conset 0x10])) (fun t => (t.port .p0).ctl) = some 0x7C := by decide
theorem test_assertNack : shows (step (inject0 [.write .conclr 0x04])) (fun t => (t.port .p0).ctl) = some 0x68 := by decide
theorem test_clearStartSI : shows (step (inject0 [.write .conclr 0x28])) (fun t => (t.port .p0).ctl) = some 0x44 := by decide
theorem test_writeData : shows (step (inject0 [.write .dat 0xA0])) (fun t => (t.port .p0).dat) = some 0xA0 := by decide
theorem test_initDivisors :
    shows (step (inject0 [.write .sclh 0x3C, .write .scll 0x3D])) (fun t => ((t.port .p0).sclh, (t.port .p0).scll)) =
      some (0x3C, 0x3D) := by decide

/-! ### Witnesses: for each statement with hypotheses, a state and operands that meet them, clause by clause at boundary values -/

/-- The highest port that exists, and port 0: SetHandlerStoresTheHandle, GetStateRespondsTheState, and the port of every other
witness. -/
theorem witness_port : PortId.index .p1 + 1 = ready.params.nports ∧ PortId.index .p0 < ready.params.nports := by decide

/-- ResetSatisfiesTheInvariant. -/
theorem witness_params : params.wf = true ∧ Params.default.nports = 2 := by decide

theorem witness_EvStartSendsFirstByte :
    PortId.index .p1 < ready.params.nports ∧ ready.params.wf = true ∧ (ready.port .p1).txbuf.length = ready.params.cap := by
  decide

/-- `txlen = CAP - 1`, and `txlen = CAP`. -/
theorem witness_EvRstartSendsReadAddress :
    let s := on0 fun x => { x with txlen := 7 }
    let t := on0 fun x => { x with txlen := 8 }
    PortId.index .p0 < s.params.nports ∧ (s.port .p0).txbuf[(s.port .p0).txlen]? = some 0 ∧
      PortId.index .p0 < t.params.nports ∧ (t.port .p0).txbuf.length = t.params.cap ∧ (t.port .p0).txlen = t.params.cap := by
  decide

/-- `txcur = txlen - 1`, and `txcur = txlen`. -/
theorem witness_EvSlawAckSendsOrStops :
    let s := on0 fun x => { x with txlen := 8, txcur := 7 }
    let t := on0 fun x => { x with txlen := 1, txcur := 1 }
    ((s.port .p0).txcur < (s.port .p0).txlen ∧ (s.port .p0).txbuf[(s.port .p0).txcur]? = some 0) ∧
      (t.port .p0).txlen ≤ (t.port .p0).txcur := by decide

theorem witness_EvTxdataAckThreeWays :
    let s := on0 fun x => { x with txlen := 8, txcur := 7 }
    let t := on0 fun x => { x with txlen := 2, txcur := 2, rxreq := 1 }
    let u := on0 fun x => { x with txlen := 2, txcur := 2, rxreq := 0 }
    ((s.port .p0).txcur < (s.port .p0).txlen ∧ (s.port .p0).txbuf[(s.port .p0).txcur]? = some 0) ∧
      ((t.port .p0).txlen ≤ (t.port .p0).txcur ∧ 0 < (t.port .p0).rxreq) ∧
      ((u.port .p0).txlen ≤ (u.port .p0).txcur ∧ (u.port .p0).rxreq = 0) := by decide

theorem witness_NackEventsStopAndReport :
    PortId.index .p0 < ready.params.nports ∧
      ((Instr.evAddrNackRead .p0 = .evTxdataNack .p0 ∧ TxState.nackOnAddress = .nackOnData) ∨
        (Instr.evAddrNackRead .p0 = .evAddrNackWrite .p0 ∧ TxState.nackOnAddress = .nackOnAddress) ∨
        (Instr.evAddrNackRead .p0 = .evAddrNackRead .p0 ∧ TxState.nackOnAddress = .nackOnAddress)) := by decide

/-- Two bytes left, and one. -/
theorem witness_EvSlarAckDecidesAck :
    let s := on0 fun x => { x with rxreq := 2 }
    let t := on0 fun x => { x with rxreq := 1 }
    (s.port .p0).rxcur + 1 < (s.port .p0).rxreq ∧ (t.port .p0).rxreq ≤ (t.port .p0).rxcur + 1 := by decide

theorem witness_EvRxdataAckStoresAndDecides :
    let s := on0 fun x => { x with rxreq := 3 }
    let t := on0 fun x => { x with rxreq := 2, rxcur := 7 }
    let u := on0 fun x => { x with rxcur := 8 }
    ((s.port .p0).rxcur < (s.port .p0).rxbuf.length ∧ (s.port .p0).rxcur + 2 < (s.port .p0).rxreq) ∧
      ((t.port .p0).rxcur < (t.port .p0).rxbuf.length ∧ (t.port .p0).rxreq ≤ (t.port .p0).rxcur + 2) ∧
      ((u.port .p0).rxbuf.length = u.params.cap ∧ (u.port .p0).rxcur = u.params.cap) := by decide

theorem witness_EvRxdataNackStoresAndEnds :
    let t := on0 fun x => { x with rxreq := 5, rxcur := 7 }
    let u := on0 fun x => { x with rxcur := 8 }
    (t.port .p0).rxcur < (t.port .p0).rxbuf.length ∧
      ((u.port .p0).rxbuf.length = u.params.cap ∧ (u.port .p0).rxcur = u.params.cap) := by decide

theorem witness_EvArbLostClearsSI :
    ready.params.arbLostSetsState = false ∧
      ({ ready with params := { params with arbLostSetsState := true } } : State).params.arbLostSetsState = true := by decide

theorem witness_EvUnrecognisedClearsSI : PortId.index .p1 < ready.params.nports := by decide

theorem witness_EventFaultsExactlyOnOverrun :
    let s := on0 fun x => { x with txlen := 8 }
    (Instr.evRstart .p0).isEvent = true ∧ (Instr.evRstart .p0).port.index < s.params.nports ∧ s.params.wf = true ∧
      (s.port .p0).txbuf.length = s.params.cap ∧ (s.port .p0).rxbuf.length = s.params.cap := by decide

/-- ControlActionsWriteOneWord, DataAndStatusActions, InitActionsWriteTheirWords: the port exists. -/
theorem witness_actions : PortId.index .p1 < (inject0 []).params.nports := by decide

/-- A command at any of its lines, and beyond its last: InitPerformsItsLines, InitPreparesThePort, EngineEntryStartsTheTransaction, and
the lines of the other commands. -/
theorem witness_lines (i : Instr) (n : Nat) :
    (atLine i n ready).cu.line = n ∧ PortId.index .p0 < (atLine i n ready).params.nports ∧
      (atLine i n ready).params.manualWaitBounded = true ∧ (atLine i n ready).params.initSetsEnable = true := ⟨rfl, Nat.zero_lt_two, rfl, rfl⟩

/-- The switches the other way. -/
theorem witness_switches :
    let s := { ready with params := { params with manualWaitBounded := false, initSetsEnable := false } }
    s.params.initSetsEnable = false ∧ s.params.manualWaitBounded = false ∧ s.params.wf = true := by decide

/-- WRITE: the longest that fits, the shortest that does not, the last byte of the `for` line and its end. -/
theorem witness_WritePerformsItsLines :
    let i := Instr.write .p0 0x50 ⟨64, 9⟩ 7
    let s := { atLine i 3 ready with cu := { CommandUnit.idle with cur := some i, line := 3, idx := 6 } }
    let t := { atLine i 3 ready with cu := { CommandUnit.idle with cur := some i, line := 3, idx := 7 } }
    (7 ≤ (⟨64, 9⟩ : HostArray).len ∧ 7 + 1 ≤ ready.params.cap ∧ 0 < (ready.port .p0).txbuf.length) ∧
      (8 ≤ (⟨64, 9⟩ : HostArray).len ∧ ready.params.cap < 8 + 1) ∧
      (s.cu.line = 3 ∧ s.cu.idx < 7 ∧ 1 + s.cu.idx < (s.port .p0).txbuf.length) ∧ (t.cu.line = 3 ∧ 7 ≤ t.cu.idx) := by decide

theorem witness_WriteBuildsTransmitBuffer :
    PortId.index .p0 < fresh.params.nports ∧ 7 ≤ (⟨64, 7⟩ : HostArray).len ∧ (fresh.port .p0).txbuf.length = fresh.params.cap ∧
      7 + 1 ≤ fresh.params.cap ∧ fresh.cu.line = 0 := by decide

/-- READ at capacity; lines 2 and 7 at the last byte and at the end. -/
theorem witness_ReadPerformsItsLines :
    let i := Instr.read .p0 0x50 ⟨0, 6⟩ 6 ⟨64, 8⟩ 8
    let at' := fun n k => { atLine i n ready with cu := { CommandUnit.idle with cur := some i, line := n, idx := k } }
    (6 ≤ (⟨0, 6⟩ : HostArray).len ∧ 8 ≤ (⟨64, 8⟩ : HostArray).len ∧ 6 + 2 ≤ ready.params.cap ∧ 8 ≤ ready.params.cap) ∧
      ((ready.port .p0).txbuf.length = ready.params.cap ∧ (ready.port .p0).rxbuf.length = ready.params.cap) ∧
      ((at' 2 5).cu.line = 2 ∧ (at' 2 5).cu.idx < 6) ∧ ((at' 2 6).cu.line = 2 ∧ 6 ≤ (at' 2 6).cu.idx) ∧
      ((at' 7 7).cu.line = 7 ∧ (at' 7 7).cu.idx < 8 ∧ Memory.wf (at' 7 7).hostMem) ∧
      ((at' 7 8).cu.line = 7 ∧ 8 ≤ (at' 7 8).cu.idx) := by decide

theorem witness_ReadBuildsTransmitBuffer :
    PortId.index .p0 < fresh.params.nports ∧ 6 ≤ (⟨0, 6⟩ : HostArray).len ∧ 8 ≤ (⟨64, 8⟩ : HostArray).len ∧
      6 + 2 ≤ fresh.params.cap ∧ 8 ≤ fresh.params.cap ∧ (fresh.port .p0).txbuf.length = fresh.params.cap ∧
      fresh.cu.line = 0 := by decide

theorem witness_ReadCopiesOutWhateverTheOutcome :
    let s := atLine (.read .p0 0x50 ⟨0, 6⟩ 6 ⟨64, 8⟩ 8) 7 { ready with hostMem := [(64, 0x11)] }
    (s.port .p0).rxbuf.length = s.params.cap ∧ s.cu.line = 7 ∧ s.cu.idx = 0 ∧ Memory.wf s.hostMem := by decide

theorem witness_IllegalOperandsAreRefused :
    ready.params.nports ≤ (Instr.init .p2).port.index ∧ (⟨64, 1⟩ : HostArray).len < 2 ∧ ready.params.cap < 7 + 2 ∧
      ready.params.cap < 9 := by decide

/-- ENGINE: the states that go on waiting and one that does not, the ceiling and below it, with and without a caller. -/
theorem witness_EngineWaitIterates :
    let s := { ready with tmo := 100 }
    (TxState.busy ≠ .ok ∧ TxState.ok ≠ .busy ∧ TxState.ok ≠ .started ∧ TxState.ok ≠ .restarted) ∧
      s.tmo = s.params.ceiling ∧ ready.tmo ≠ ready.params.ceiling := by decide

theorem witness_EngineReturnsTheFinalState :
    let s := { atLine (.engine .p0) 10 ready with
      cu := { CommandUnit.idle with line := 10, caller := some (.write .p0 0x50 ⟨64, 1⟩ 1) } }
    (s.cu.line = 10 ∧ s.cu.caller = some (.write .p0 0x50 ⟨64, 1⟩ 1)) ∧ (atLine (.engine .p0) 10 ready).cu.caller = none := by
  decide

theorem witness_EngineTimesOutAfterExactlyTheCeiling :
    PortId.index .p0 < ready.params.nports ∧ ready.cu.line < 2 ∧ 1 ≤ ready.params.ceiling ∧ 99 < ready.params.ceiling := by decide

theorem witness_StartPerformsItsLines :
    let s := { atLine (.start .p0) 5 ready with cu := { CommandUnit.idle with line := 5, seen := .busy } }
    (s.cu.line = 5 ∧ s.cu.seen = .busy) ∧ (atLine (.start .p0) 5 ready).cu.seen ≠ .busy := by decide

/-- STOP: the flag clear and set. -/
theorem witness_StopPerformsItsLines :
    let s := atLine (.stop .p0) 3 (on0 fun x => { x with ctl := 0x50 })
    (ready.port .p0).ctl &&& ready.params.flag.stop = 0 ∧ (s.port .p0).ctl &&& s.params.flag.stop ≠ 0 ∧ s.cu.line = 3 := by decide

theorem witness_StopGivesUpAfterExactlyTheCeiling :
    PortId.index .p0 < ready.params.nports ∧ ready.params.wf = true ∧ ready.params.manualWaitBounded = true ∧
      ready.cu.line = 0 := by decide

/-- An event, a line, a request, an injected action; `ready` has an empty agenda. -/
theorem witness_StepRunsTheDecodedInstruction :
    let s := irq0 0x08 ready
    let t := atLine (.stop .p0) 3 ready
    let u := { ready with agenda := [.command], requests := [⟨0x60, {}⟩] }
    let v := inject0 [.read .stat]
    (s.inject = none ∧ s.body.hung = none ∧ s.agenda = [.event .p0] ∧ PortId.index .p0 < s.params.nports ∧
      (s.port .p0).irqEn = true ∧ (s.port .p0).ctl &&& s.params.flag.si ≠ 0) ∧
      (t.inject = none ∧ t.body.hung = none ∧ t.agenda = [.command] ∧ t.cu.cur = some (.stop .p0)) ∧
      (ready.inject = none ∧ ready.agenda = []) ∧
      (u.inject = none ∧ u.body.hung = none ∧ u.agenda = [.command] ∧ u.cu.cur = none ∧ u.requests = [⟨0x60, {}⟩] ∧
        decode u.params (.command ⟨0x60, {}⟩) = .ok (.getState .p0)) ∧
      (v.inject = some (.p0, [.read .stat]) ∧ decode v.params (.access .p0 [.read .stat]) = .ok (.readStatus .p0)) := by decide

theorem witness_CommandTurnRefusesOrIdles :
    let u := { ready with agenda := [.command], requests := [⟨0x70, {}⟩] }
    (u.inject = none ∧ u.body.hung = none ∧ u.agenda = [.command] ∧ u.cu.cur = none ∧ u.requests = [⟨0x70, {}⟩] ∧
      decode u.params (.command ⟨0x70, {}⟩) = .error (.reservedOpcode 7)) ∧ ready.requests = [] := by decide

/-- SI without irq_en, and irq_en without SI. -/
theorem witness_EventNeedsRequestAndEnable :
    let s := irq0 0x08 (on0 fun x => { x with irqEn := false })
    let t := { ready with agenda := [.event .p0] }
    (s.inject = none ∧ s.agenda = [.event .p0] ∧ (s.port .p0).irqEn = false) ∧
      (t.inject = none ∧ t.agenda = [.event .p0] ∧ (t.port .p0).ctl &&& t.params.flag.si = 0) := by decide

theorem witness_BusControllerAndHostMoves :
    Memory.wf ({ ready with hostMem := [(64, 0x11)] } : State).hostMem ∧ ready.params.wf = true ∧ (ready.port .p0).ctl &&& ready.params.flag.si = 0 ∧
      ((irq0 0x08 ready).port .p0).ctl &&& (irq0 0x08 ready).params.flag.si ≠ 0 := by decide

/-- A command turn and a turn of the bus controller, while a callback has not returned. -/
theorem witness_HungCallbackStopsTheBlock :
    (hung ready).body.hung = some .p1 ∧ (hung ready).inject = none ∧
      (∃ t, step (hung (atLine (.engine .p0) 1 ready)) = .next t) ∧
      ∃ t, step (hung { ready with agenda := [.raise .p0 0x18] }) = .next t :=
  ⟨rfl, rfl, ⟨_, rfl⟩, _, rfl⟩

theorem witness_DecodeOfEncodeIsTheInstruction :
    params.wf = true ∧ (Instr.read .p1 0x7F ⟨0, 6⟩ 6 ⟨64, 8⟩ 8).wf params = true ∧
      (Instr.evUnrecognised .p0 0xFF).wf params = true := by decide

theorem witness_EncodeOfDecodeIsTheCode :
    params.wf = true ∧ decode params (.access .p0 [.write .conclr 0x6C]) = .ok (.initClear .p0) := by decide

theorem witness_HeadersAreCommandsExactlyWhen :
    params.wf = true ∧ decode params (.command ⟨0x61, {}⟩) = .ok (.getState .p1) := by decide

/-- ClassifyIsTotalAndExact: the default codes are distinct, and 0x09 is none of them. -/
theorem witness_ClassifyIsTotalAndExact : params.sc.toList.Nodup ∧ (0x09 : Byte) ∉ params.sc.toList := by decide

/-- The invariant holds in `ready`, and a step from it answers a next state. -/
theorem witness_Inv : ready.Inv := by
  refine ⟨by decide, fun p => ?_, by decide, ⟨fun i h => ?_, fun i h => ?_⟩, memory_wf_nil⟩
  · cases p <;> unfold Port.Sound <;> decide
  · cases h
  · cases h

/-- A WRITE in progress, in a state of the invariant, no callback holding the block. -/
theorem witness_EveryCommandEnds :
    let s := atLine (.write .p0 0x50 ⟨64, 7⟩ 7) 2 ready
    s.Inv ∧ s.params.manualWaitBounded = true ∧ s.cu.cur ≠ none ∧ s.body.hung = none := by
  refine ⟨⟨by decide, fun p => ?_, by decide, ⟨fun i h => ?_, fun i h => ?_⟩, memory_wf_nil⟩, rfl, by decide, rfl⟩
  · cases p <;> unfold Port.Sound <;> decide
  · cases h
    exact ⟨rfl, fun _ => by unfold fits; decide, fun h => h.elim, trivial⟩
  · cases h

/-- StepKeepsTheInvariant, StepKeepsParametersAndExtendsTrace, OnlyTheListedWordsAreWritten. -/
theorem witness_StepKeepsTheInvariant :
    ({ ready with agenda := [.host ⟨0x60, {}⟩] } : State).Inv ∧
      ∃ t, step { ready with agenda := [.host ⟨0x60, {}⟩] } = .next t :=
  ⟨witness_Inv, _, rfl⟩

/-- A step that changes the state register: EV_TXDATA_NACK; also for the statements about what a step or an event adds. -/
theorem witness_StateIsWrittenOnlyAsTabled :
    ∃ t, step (irq0 0x30 ready) = .next t ∧ (t.port .p0).state ≠ ((irq0 0x30 ready).port .p0).state :=
  ⟨_, rfl, by decide⟩

theorem witness_StateIsWrittenOnlyAsTabled_inv : (irq0 0x30 ready).Inv := by
  refine ⟨by decide, fun p => ?_, by decide, ⟨fun i h => ?_, fun i h => ?_⟩, memory_wf_nil⟩
  · cases p <;> unfold Port.Sound <;> decide
  · cases h
  · cases h

/-- An event that answers a next state, for the statements about events (EventTouchesOnlyItsPort, EventClearsSIOnceAndLast,
SingleByteReadNeverAcknowledges, CallbackFiresExactlyAtTheEnd). -/
theorem witness_events :
    let s := on0 fun x => { x with rxreq := 1 }
    s.params.wf = true ∧ (Instr.evSlarAck .p0).isEvent = true ∧ (s.port .p0).rxreq = 1 ∧ ∃ t, exec (.evSlarAck .p0) s = .next t :=
  ⟨by decide, by decide, by decide, _, rfl⟩

/-- Two states that differ in the other port and in the command unit. -/
theorem witness_EventDependsOnlyOnItsPort :
    let s := ready
    let t := { atLine (.stop .p1) 3 ready with tmo := 5, port1 := { ready.port1 with state := .ok } }
    (Instr.evStart .p0).isEvent = true ∧ s.params = t.params ∧ s.port .p0 = t.port .p0 := by decide

theorem witness_EventIgnoresTheStateRegister : (Instr.evTxdataNack .p0).isEvent = true := by decide

/-- Line 5 of INIT sets irq_en. -/
theorem witness_InterruptEnableIsOnlySetByInit :
    ∃ t, step (atLine (.init .p0) 5 fresh) = .next t ∧ (fresh.port .p0).irqEn = false ∧ (t.port .p0).irqEn = true :=
  ⟨_, rfl, by decide, by decide⟩

theorem witness_OnlyEventsFaultAndOnlyAtCapacity :
    ∃ t, step (irq0 0x10 (on0 fun x => { x with txlen := 8 })) = .fault (.bufferOverrun .p0 .tx 8 t) := ⟨_, rfl⟩

theorem witness_OnlyEventsFaultAndOnlyAtCapacity_inv : (irq0 0x10 (on0 fun x => { x with txlen := 8 })).Inv := by
  refine ⟨by decide, fun p => ?_, by decide, ⟨fun i h => ?_, fun i h => ?_⟩, memory_wf_nil⟩
  · cases p <;> unfold Port.Sound <;> decide
  · cases h
  · cases h

/-- The other buffer: a byte received with `rxcur = CAP`. -/
theorem witness_OnlyEventsFaultAndOnlyAtCapacity_rx :
    ∃ t, step (irq0 0x50 (on0 fun x => { x with rxcur := 8 })) = .fault (.bufferOverrun .p0 .rx 8 t) := ⟨_, rfl⟩

theorem witness_OnlyEventsFaultAndOnlyAtCapacity_rx_inv : (irq0 0x50 (on0 fun x => { x with rxcur := 8 })).Inv := by
  refine ⟨by decide, fun p => ?_, by decide, ⟨fun i h => ?_, fun i h => ?_⟩, memory_wf_nil⟩
  · cases p <;> unfold Port.Sound <;> decide
  · cases h
  · cases h

theorem witness_RegisterAddressesAlignedAndDistinct :
    params.wf = true ∧ (TraceEntry.regRead .p0 .stat 0xF8).address params = some 0x4001C004 := by decide

theorem witness_WriteSendsAddressAndDataInOrder :
    PortId.index .p0 < ready.params.nports ∧ 7 ≤ (⟨64, 7⟩ : HostArray).len ∧ (ready.port .p0).txbuf.length = ready.params.cap ∧
      7 + 1 ≤ ready.params.cap ∧ ready.cu.line = 0 := by decide

/-- Eight bytes, as many as fit. -/
theorem witness_ReadPhaseReceivesBytesInOrder :
    let s := on0 fun x => { x with rxreq := 8, txlen := 7 }
    let bs : List Byte := [1, 2, 3, 4, 5, 6, 7, 8]
    s.params.wf = true ∧ PortId.index .p0 < s.params.nports ∧ (s.port .p0).rxbuf.length = s.params.cap ∧
      (s.port .p0).rxreq ≤ s.params.cap ∧ s.body.hung = none ∧ (s.port .p0).txbuf[(s.port .p0).txlen]? = some 0 ∧ (s.port .p0).irqEn = true ∧
      (s.port .p0).ctl &&& s.params.flag.si = 0 ∧ bs ≠ [] ∧ bs.length = (s.port .p0).rxreq := by decide

end Sys2Proof.Tests
end

section
/-! The control actions of 20_memory.md (R33 to R38): what an instruction that is one register write answers is said once. -/

namespace Sys2Proof.Machine

/-- An instruction that is one register write on a port that exists answers with that register written, one trace entry, and the frame
of a register write (R19, R32). -/
theorem answersPort_of_exec_regWrite {i : Instr} {p : PortId} {s : State} {r : WriteReg} {w : Word}
    (hp : p.index < s.params.nports) (hi : exec i s = withPort p s (.next (regWrite p r w s))) :
    AnswersPort (exec i s) s p ((s.port p).writeReg r w) [.regWrite p r w] := by
  have hnext : exec i s = .next (regWrite p r w s) := hi.trans (withPort_pos _ _ hp)
  exact answers_intro hnext (regWrite_port_same ..) (regWrite_trace ..) (regWrite_body ..) (regWrite_cu ..)
    (regWrite_tmo ..) (regWrite_resp ..) (fun q hq => regWrite_port_ne _ _ _ _ _ hq) (regWrite_params ..) (regWrite_hostMem ..)
    (regWrite_requests ..) (regWrite_agenda ..) (regWrite_draws ..) (regWrite_inject ..)

/-- Settles O12, by cases on the action: each is one write of CONSET or of CONCLR, whose effect on the control word is R32. -/
theorem controlActionsWriteOneWord : Obligations.ControlActionsWriteOneWord := by
  unfold Obligations.ControlActionsWriteOneWord
  intro p s hp
  constructor
  · rintro i m (⟨rfl, rfl⟩ | ⟨rfl, rfl⟩ | ⟨rfl, rfl⟩) <;>
      exact answersPort_of_exec_regWrite (r := .conset) hp rfl
  · rintro i m (⟨rfl, rfl⟩ | ⟨rfl, rfl⟩ | ⟨rfl, rfl⟩) <;>
      exact answersPort_of_exec_regWrite (r := .conclr) hp rfl

end Sys2Proof.Machine
end

section
/-! The tables of 30_encoding.md: which event a status byte selects (R58, R59), and the address byte (R62). -/

namespace Sys2Proof.Machine

/-- The last row of R59: every row before it is taken exactly for its own code. -/
theorem classify_eq_evUnrecognised_iff (c : StatusCodes) (p : PortId) (b : Byte) :
    classify c p b = .evUnrecognised p b ↔ b ∉ c.toList := by
  unfold classify StatusCodes.toList
  repeat' split
  all_goals simp [*]

/-- With distinct codes no row of R58 hides a later one. -/
theorem classify_code_of_nodup {c : StatusCodes} (hc : c.toList.Nodup) (p : PortId) :
    classify c p c.start = .evStart p ∧ classify c p c.rstart = .evRstart p ∧ classify c p c.slawAck = .evSlawAck p ∧
      classify c p c.slawNack = .evAddrNackWrite p ∧ classify c p c.txdataAck = .evTxdataAck p ∧
      classify c p c.txdataNack = .evTxdataNack p ∧ classify c p c.arbLost = .evArbLost p ∧
      classify c p c.slarAck = .evSlarAck p ∧ classify c p c.slarNack = .evAddrNackRead p ∧
      classify c p c.rxdataAck = .evRxdataAck p ∧ classify c p c.rxdataNack = .evRxdataNack p := by
  simp only [StatusCodes.toList, List.nodup_cons, List.mem_cons, List.not_mem_nil, not_or] at hc
  simp [classify, hc, eq_comm]

/-- Distinct numbers below `n`, taken from all those below `n`, leave the rest. -/
theorem length_filter_notMem_range {n : Nat} {l : List Nat} (hl : l.Nodup) (hlt : ∀ a ∈ l, a < n) :
    ((List.range n).filter (· ∉ l)).length = n - l.length := by
  have hsub : l.toFinset ⊆ Finset.range n := fun a ha => Finset.mem_range.2 (hlt a (List.mem_toFinset.1 ha))
  calc ((List.range n).filter (· ∉ l)).length
      = (Finset.range n \ l.toFinset).card := by
        simp only [Finset.sdiff_eq_filter, List.mem_toFinset]
        rfl
    _ = n - l.length := by
        rw [Finset.card_sdiff_of_subset hsub, Finset.card_range, List.toFinset_card_of_nodup hl]

theorem ofNat_mem_iff_mem_map_toNat {n : Nat} (hn : n < 256) (l : List Byte) :
    BitVec.ofNat 8 n ∈ l ↔ n ∈ l.map BitVec.toNat := by
  have hval : (BitVec.ofNat 8 n).toNat = n := Nat.mod_eq_of_lt hn
  rw [← List.mem_map_of_injective BitVec.toNat_injective, hval]

/-- Whatever eleven distinct codes are chosen, 256 - 11 bytes are none of them. -/
theorem length_unrecognised_of_nodup {c : StatusCodes} (hc : c.toList.Nodup) (p : PortId) :
    ((List.range 256).filter fun n =>
      classify c p (BitVec.ofNat 8 n) = .evUnrecognised p (BitVec.ofNat 8 n)).length = 245 := by
  have hfilter : ((List.range 256).filter fun n =>
      classify c p (BitVec.ofNat 8 n) = .evUnrecognised p (BitVec.ofNat 8 n)) =
      (List.range 256).filter (· ∉ c.toList.map BitVec.toNat) := by
    refine List.filter_congr fun n hn => ?_
    rw [decide_eq_decide, classify_eq_evUnrecognised_iff, ofNat_mem_iff_mem_map_toNat (List.mem_range.1 hn)]
  have hlt : ∀ a ∈ c.toList.map BitVec.toNat, a < 256 := by
    simp only [List.mem_map]
    rintro _ ⟨b, _, rfl⟩
    exact b.isLt
  rw [hfilter, length_filter_notMem_range (hc.map BitVec.toNat_injective) hlt, List.length_map]
  rfl

/-- Settles O42: the rows of R58 in turn; the count holds for any distinct codes, and the default ones are distinct. -/
theorem classifyIsTotalAndExact : Obligations.ClassifyIsTotalAndExact := by
  unfold Obligations.ClassifyIsTotalAndExact
  refine ⟨fun c p b => ?_, fun c p hc => ?_, ?_⟩
  · exact ⟨classify_isEvent c p b, classify_port c p b, classify_eq_evUnrecognised_iff c p b⟩
  · exact classify_code_of_nodup hc p
  · exact length_unrecognised_of_nodup (by decide) .p0

/-- Settles O43: the shifted address has bit 0 clear, so the `or` of R62 is a sum, and bits 7:0 are its value modulo 256. -/
theorem addressBytePacksAddressAndDirection : Obligations.AddressBytePacksAddressAndDirection := by
  unfold Obligations.AddressBytePacksAddressAndDirection
  intro a dir
  have hdir : dir.toNat < 2 := dir.toNat_lt
  have hor : a <<< 1 ||| dir.toNat = a * 2 + dir.toNat := by
    rw [← Nat.shiftLeft_add_eq_or_of_lt hdir, Nat.shiftLeft_eq, Nat.pow_one]
  rw [addrByte, hor, BitVec.toNat_ofNat]
  omega

end Sys2Proof.Machine
end

section
/-! The words the block writes to the registers of the bus controller (R61), for events, commands, actions and so for every step. -/

namespace Sys2Proof.Machine

/-- Every register write among some trace entries is of a word of R61. -/
def WritesListed (P : Params) (es : List TraceEntry) : Prop :=
  ∀ p r w, .regWrite p r w ∈ es → wordListed P r w

variable {P : Params} {es : List TraceEntry}

@[simp] theorem writesListed_nil : WritesListed P [] := fun _ _ _ h => nomatch h

@[simp] theorem writesListed_regWrite_cons {p : PortId} {r : WriteReg} {w : Word} :
    WritesListed P (.regWrite p r w :: es) ↔ wordListed P r w ∧ WritesListed P es := by
  simp only [WritesListed, List.mem_cons, TraceEntry.regWrite.injEq]
  constructor
  · exact fun h => ⟨h p r w (.inl ⟨rfl, rfl, rfl⟩), fun q s u hu => h q s u (.inr hu)⟩
  · rintro ⟨hw, hes⟩ q s u (⟨-, rfl, rfl⟩ | hu)
    · exact hw
    · exact hes q s u hu

@[simp] theorem writesListed_regRead_cons {p : PortId} {r : ReadReg} {w : Word} :
    WritesListed P (.regRead p r w :: es) ↔ WritesListed P es := by
  simp [WritesListed]

@[simp] theorem writesListed_cbEntries (p : PortId) (x : Port) : WritesListed P (cbEntries p x) := by
  unfold cbEntries
  split <;> simp [WritesListed]

theorem eventEffect_writesListed {x y : Port} {i : Instr} (h : EventEffect P x i y es) : WritesListed P es := by
  cases h <;> simp [wordListed]

theorem exec_writesListed {i : Instr} {s t : State} (h : exec i s = .next t) :
    ∃ es, t.trace = s.trace ++ es ∧ WritesListed s.params es := by
  cases hi : i.isEvent with
  | true =>
    obtain ⟨_, _, es, heffect, _, htrace, _⟩ := event_next hi h
    exact ⟨es, htrace, eventEffect_writesListed heffect⟩
  | false =>
    obtain ⟨es, hforeground⟩ := foreground_next hi h
    refine ⟨es, hforeground.trace, fun q r w hw => ?_⟩
    obtain ⟨_, _, hlisted⟩ := hforeground.entries _ hw
    exact hlisted q r w rfl

/-- Settles O53, by cases on what the step runs: an event reads STAT before its body, every other instruction starts from the trace of
`s`, and a move of the outside world adds no access. -/
theorem onlyTheListedWordsAreWritten : Obligations.OnlyTheListedWordsAreWritten := by
  unfold Obligations.OnlyTheListedWordsAreWritten
  intro s t hstep
  obtain ⟨l, n, hruns⟩ := step_runs s
  generalize step s = r at hstep hruns
  cases hruns with
  | event p _ _ =>
    obtain ⟨es, htrace, hlisted⟩ := exec_writesListed hstep
    rw [actReadStatus, regRead_trace, List.append_assoc] at htrace
    rw [actReadStatus, regRead_params] at hlisted
    exact ⟨_, htrace, writesListed_regRead_cons.2 hlisted⟩
  | line _ _ _ | accept _ _ _ _ _ _ _ | injected _ _ _ _ _ =>
    have hexec := exec_writesListed hstep
    exact hexec
  | undecodable _ => cases hstep
  | outside _ houtside _ _ =>
    cases hstep
    exact ⟨[], by rw [houtside.trace, List.append_nil], writesListed_nil⟩

end Sys2Proof.Machine
end

section
/-! The events of 40_events_transmit.md. `event_next` says which forms an event's effect takes; here is the other direction, for every
event: a form whose condition holds is what the event answers. -/

namespace Sys2Proof.Machine

/-- Of the forms of an event at most one applies: those of one instruction have opposite conditions, and the byte a form sends is the
one at its index. -/
theorem eventEffect_unique {P : Params} {x y y' : Port} {i : Instr} {es es' : List TraceEntry}
    (h : EventEffect P x i y es) (h' : EventEffect P x i y' es') : y' = y ∧ es' = es := by
  cases h with
  | start _ _ hb | rstart _ _ hb | send _ _ _ _ _ hb =>
    -- the byte at an index is one byte
    cases h' <;> grind
  | restart _ hc hr | finish _ _ _ hi =>
    -- `txcur` and `rxreq` decide (R83, R84); the other endings are of one form each
    cases h' <;> grind
  | slarMore _ hc | slarLast _ hc | storeMore _ _ hc | storeLast _ _ hc =>
    -- the acknowledge decision (R90, R91)
    cases h' <;> grind
  | storeEnd => cases h' <;> grind
  | clear _ _ hi | lost _ hset =>
    -- the switch of R95 decides
    cases h' <;> grind

/-- An event a form of which applies answers a next state. -/
theorem exec_next_of_eventEffect {i : Instr} {s : State} {y : Port} {es : List TraceEntry} (hp : i.port.index < s.params.nports)
    (h : EventEffect s.params (s.port i.port) i y es) : ∃ t, exec i s = .next t := by
  cases h with
  | start p b hb =>
    have hfetch : ((s.modPort p fun x => { x with txcur := 0 }).port p).txbuf[
        ((s.modPort p fun x => { x with txcur := 0 }).port p).txcur]? = some b := by
      rw [modPort_port_same]
      exact hb
    exact ⟨_, (withPort_pos _ _ hp).trans (txNext_some _ _ hfetch)⟩
  | rstart p b hb =>
    have hfetch : ((s.modPort p fun x => { x with rxcur := 0 }).port p).txbuf[(s.port p).txlen]? = some b := by
      rw [modPort_port_same]
      exact hb
    exact ⟨_, (withPort_pos _ _ hp).trans (txFetch_some _ _ hfetch)⟩
  | send i p b hi hc hb =>
    rcases hi with rfl | rfl <;>
      exact ⟨_, (withPort_pos _ _ hp).trans ((if_pos hc).trans (txNext_some _ _ hb))⟩
  | restart p hc hr =>
    exact ⟨_, (withPort_pos _ _ hp).trans ((if_neg hc.not_gt).trans (if_pos hr))⟩
  | finish i p S hi =>
    rcases hi with ⟨rfl, -, hc⟩ | ⟨rfl, -, hc, hr⟩ | ⟨rfl, -⟩ | ⟨rfl, -⟩ | ⟨rfl, -⟩
    · exact ⟨_, (withPort_pos _ _ hp).trans (if_neg hc.not_gt)⟩
    · exact ⟨_, (withPort_pos _ _ hp).trans ((if_neg hc.not_gt).trans (if_neg hr.not_gt))⟩
    all_goals exact ⟨_, withPort_pos _ _ hp⟩
  | slarMore p hc | slarLast p hc => exact ⟨_, withPort_pos _ _ hp⟩
  | storeMore p hb hc | storeLast p hb hc | storeEnd p hb =>
    have hroom : ((actReadData p s).port p).rxcur < ((actReadData p s).port p).rxbuf.length := by
      rw [actReadData, regRead_port]
      exact hb
    exact ⟨_, (withPort_pos _ _ hp).trans (rxStore_pos _ _ _ hroom)⟩
  | clear i p hi =>
    rcases hi with ⟨rfl, -⟩ | ⟨b, rfl⟩ <;> exact ⟨_, withPort_pos _ _ hp⟩
  | lost p hset => exact ⟨_, withPort_pos _ _ hp⟩

/-- What an event answers (R80): the form that applies, and the frame of one port. -/
theorem answersPort_of_eventEffect {i : Instr} {s : State} {y : Port} {es : List TraceEntry}
    (hp : i.port.index < s.params.nports) (hi : i.isEvent = true) (h : EventEffect s.params (s.port i.port) i y es) :
    AnswersPort (exec i s) s i.port y es := by
  obtain ⟨t, hnext⟩ := exec_next_of_eventEffect hp h
  obtain ⟨-, y', es', h', hstep⟩ := event_next hi hnext
  obtain ⟨rfl, rfl⟩ := eventEffect_unique h h'
  exact ⟨t, hnext, hstep⟩

/-- R5: a buffer has at least two bytes. -/
theorem two_le_cap_of_wf {P : Params} (h : P.wf = true) : 2 ≤ P.cap := by
  simp only [Params.wf, Bool.and_eq_true, decide_eq_true_eq] at h
  obtain ⟨⟨⟨⟨⟨⟨⟨⟨-, -⟩, hcap⟩, -⟩, -⟩, -⟩, -⟩, -⟩, -⟩ := h
  exact hcap

/-- Settles O1: a buffer of at least two bytes (R5) has a byte at index 0, so EV_START has one to send. -/
theorem evStartSendsFirstByte : Obligations.EvStartSendsFirstByte := by
  unfold Obligations.EvStartSendsFirstByte
  intro p s hp hwf hlen
  have hcap : 2 ≤ s.params.cap := two_le_cap_of_wf hwf
  have hpos : 0 < (s.port p).txbuf.length := by omega
  have hfirst := List.getElem?_eq_getElem hpos
  exact ⟨_, hfirst, answersPort_of_eventEffect hp rfl (.start p _ hfirst)⟩

/-- Settles O3: `txcur < txlen` selects the form that sends, its negation the form that ends the transaction. -/
theorem evSlawAckSendsOrStops : Obligations.EvSlawAckSendsOrStops := by
  unfold Obligations.EvSlawAckSendsOrStops
  intro p s hp
  constructor
  · intro hmore b hb
    exact answersPort_of_eventEffect hp rfl (.send _ p b (.inl rfl) hmore hb)
  · intro hsent
    exact answersPort_of_eventEffect hp rfl (.finish _ p .ok (.inl ⟨rfl, rfl, hsent⟩))

/-- Settles O4: the cursor decides whether a byte is sent, and when none is left `rxreq` decides between the repeated START and the
end of the transaction. -/
theorem evTxdataAckThreeWays : Obligations.EvTxdataAckThreeWays := by
  unfold Obligations.EvTxdataAckThreeWays
  intro p s hp
  refine ⟨fun hmore b hb => ?_, fun hsent hrx => ?_, fun hsent hrx => ?_⟩
  · exact answersPort_of_eventEffect hp rfl (.send _ p b (.inr rfl) hmore hb)
  · exact answersPort_of_eventEffect hp rfl (.restart p hsent hrx)
  · exact answersPort_of_eventEffect hp rfl (.finish _ p .ok (.inr (.inl ⟨rfl, rfl, hsent, hrx⟩)))

/-- Settles O5: each of the three events is the ending of R85 and R86, with the state its row names. -/
theorem nackEventsStopAndReport : Obligations.NackEventsStopAndReport := by
  unfold Obligations.NackEventsStopAndReport
  intro p s hp i S hi
  have heffect := EventEffect.finish (P := s.params) (x := s.port p) i p S (.inr (.inr hi))
  rcases hi with ⟨rfl, -⟩ | ⟨rfl, -⟩ | ⟨rfl, -⟩ <;> exact answersPort_of_eventEffect hp rfl heffect

end Sys2Proof.Machine
end

section
/-! The events of 41_events_receive.md that store no byte: each obligation names the form of `EventEffect` that its condition selects. -/

namespace Sys2Proof.Machine

/-- Settles O6: whether a byte follows the one at the cursor selects the form that asserts ACK or the form that asserts NACK. -/
theorem evSlarAckDecidesAck : Obligations.EvSlarAckDecidesAck := by
  unfold Obligations.EvSlarAckDecidesAck
  intro p s hp
  constructor
  · intro hmore
    exact answersPort_of_eventEffect hp rfl (.slarMore p hmore)
  · intro hlast
    exact answersPort_of_eventEffect hp rfl (.slarLast p hlast)

/-- Settles O9: the switch ARB_LOST_SETS_STATE selects between the form that only clears SI and the one that ends the transaction. -/
theorem evArbLostClearsSI : Obligations.EvArbLostClearsSI := by
  unfold Obligations.EvArbLostClearsSI
  intro p s hp
  constructor
  · intro hoff
    exact answersPort_of_eventEffect hp rfl (.clear _ p (.inl ⟨rfl, hoff⟩))
  · intro hon
    exact answersPort_of_eventEffect hp rfl (.lost p hon)

/-- Settles O10: the form that only clears SI, whatever the status byte. -/
theorem evUnrecognisedClearsSI : Obligations.EvUnrecognisedClearsSI := by
  unfold Obligations.EvUnrecognisedClearsSI
  intro p b s hp
  exact answersPort_of_eventEffect hp rfl (.clear _ p (.inr ⟨b, rfl⟩))

end Sys2Proof.Machine
end

section
/-! The commands of 42_commands.md that one step ends: SET_HANDLER (R101) and GET_STATE (R107). -/

namespace Sys2Proof.Machine

/-- A state is reached from itself with nothing done. -/
theorem portStep_refl (p : PortId) (s : State) : PortStep s s p (s.port p) [] :=
  portStep_intro rfl (List.append_nil _).symm rfl rfl rfl rfl (fun _ _ => rfl) rfl rfl rfl rfl rfl rfl

/-- A change of one Port Context touches no register: it adds no trace entry. -/
theorem portStep_modPort (p : PortId) (f : Port → Port) (s : State) : PortStep s (s.modPort p f) p (f (s.port p)) [] :=
  portStep_intro (modPort_port_same ..) ((modPort_trace ..).trans (List.append_nil _).symm) (modPort_body ..) (modPort_cu ..)
    (modPort_tmo ..) (modPort_resp ..) (fun _ hq => modPort_port_ne _ _ _ _ hq) (modPort_params ..) (modPort_hostMem ..)
    (modPort_requests ..) (modPort_agenda ..) (modPort_draws ..) (modPort_inject ..)

/-- The last line of a command (R110): what it has done to its port and to the trace, and then the response and an idle unit. -/
theorem answers_of_exec_respond {i : Instr} {p : PortId} {s t : State} {r : Response} {y : Port} {es : List TraceEntry}
    (hp : p.index < s.params.nports) (hi : exec i s = withPort p s (.next (respond r t))) (h : PortStep s t p y es) :
    Answers (exec i s) s p y es .idle s.tmo (some r) := by
  have hnext : exec i s = .next (respond r t) := hi.trans (withPort_pos _ _ hp)
  obtain ⟨hport, htrace, hbody, -, htmo, -, hothers, hrest⟩ := h
  exact ⟨respond r t, hnext, (respond_port ..).trans hport, htrace, hbody, rfl, htmo, rfl,
    fun q hq => (respond_port ..).trans (hothers q hq), hrest⟩

/-- Settles O17: before it responds, SET_HANDLER changes the `cb` of its Port Context, for a null handle as for any other. -/
theorem setHandlerStoresTheHandle : Obligations.SetHandlerStoresTheHandle := by
  unfold Obligations.SetHandlerStoresTheHandle
  intro p h s hp
  exact answers_of_exec_respond hp rfl (portStep_modPort p (fun x => { x with cb := h }) s)

/-- Settles O18: before it responds, GET_STATE does nothing. -/
theorem getStateRespondsTheState : Obligations.GetStateRespondsTheState := by
  unfold Obligations.GetStateRespondsTheState
  intro p s hp
  exact answers_of_exec_respond hp rfl (portStep_refl p s)

end Sys2Proof.Machine
end

section
/-! What legal parameters say (00_scope.md section 4), taken apart once, and above all what two flag masks have in common: nothing. -/

namespace Sys2Proof.Machine

variable {P : Params}

theorem ceiling_pos_of_wf (h : P.wf = true) : 1 ≤ P.ceiling := by
  simp only [Params.wf, Bool.and_eq_true, decide_eq_true_eq] at h
  obtain ⟨⟨⟨⟨⟨⟨-, hceiling⟩, -⟩, -⟩, -⟩, -⟩, -⟩ := h
  exact hceiling

theorem nports_le_of_wf (h : P.wf = true) : P.nports ≤ 3 := by
  simp only [Params.wf, Bool.and_eq_true, decide_eq_true_eq] at h
  obtain ⟨⟨⟨⟨⟨⟨⟨⟨-, hports⟩, -⟩, -⟩, -⟩, -⟩, -⟩, -⟩, -⟩ := h
  exact hports

theorem codes_nodup_of_wf (h : P.wf = true) : P.sc.toList.Nodup := by
  simp only [Params.wf, Bool.and_eq_true, decide_eq_true_eq] at h
  obtain ⟨⟨⟨⟨⟨-, hcodes⟩, -⟩, -⟩, -⟩, -⟩ := h
  exact hcodes

theorem addresses_of_wf (h : P.wf = true) :
    (P.reg0.toList ++ P.reg1.toList ++ P.reg2.toList).Nodup ∧
      ∀ a ∈ P.reg0.toList ++ P.reg1.toList ++ P.reg2.toList, a &&& 3 = 0 := by
  simp only [Params.wf, Bool.and_eq_true, decide_eq_true_eq] at h
  obtain ⟨⟨-, hnodup⟩, haligned⟩ := h
  exact ⟨hnodup, fun a ha => by simpa using List.all_eq_true.1 haligned a ha⟩

/-- The five masks are not empty, and no two share a bit (R7, R60). -/
structure FlagsSeparate (f : FlagMasks) : Prop where
  start_ne : f.start ≠ 0
  stop_ne : f.stop ≠ 0
  si_ne : f.si ≠ 0
  ack_ne : f.ack ≠ 0
  enable_ne : f.enable ≠ 0
  start_stop : f.start &&& f.stop = 0
  start_si : f.start &&& f.si = 0
  start_ack : f.start &&& f.ack = 0
  start_enable : f.start &&& f.enable = 0
  stop_si : f.stop &&& f.si = 0
  stop_ack : f.stop &&& f.ack = 0
  stop_enable : f.stop &&& f.enable = 0
  si_ack : f.si &&& f.ack = 0
  si_enable : f.si &&& f.enable = 0
  ack_enable : f.ack &&& f.enable = 0

theorem flagsSeparate_of_wf (h : P.wf = true) : FlagsSeparate P.flag := by
  simp only [Params.wf, Bool.and_eq_true, decide_eq_true_eq, FlagMasks.toList, List.all_cons, List.all_nil, bne_iff_ne,
    List.pairwise_cons, List.forall_mem_cons] at h
  obtain ⟨⟨⟨⟨-, ⟨start_ne, -⟩, ⟨stop_ne, -⟩, ⟨si_ne, -⟩, ⟨ack_ne, -⟩, ⟨enable_ne, -⟩, -⟩,
    ⟨start_stop, start_si, start_ack, start_enable, -⟩, ⟨stop_si, stop_ack, stop_enable, -⟩, ⟨si_ack, si_enable, -⟩,
    ⟨ack_enable, -⟩, -⟩, -⟩, -⟩ := h
  exact ⟨start_ne, stop_ne, si_ne, ack_ne, enable_ne, start_stop, start_si, start_ack, start_enable, stop_si, stop_ack,
    stop_enable, si_ack, si_enable, ack_enable⟩

/-- Words that differ in a flag are different words. -/
theorem ne_of_and_mask {a b m : Word} (hm : m ≠ 0) (ha : a &&& m = m) (hb : b &&& m = 0) : a ≠ b := by
  rintro rfl
  exact hm (ha.symm.trans hb)

end Sys2Proof.Machine
end

section
/-! Encoding and decoding agree (30_encoding.md): status words (R57 to R59), command headers (R65, R66), register accesses (R61). -/

namespace Sys2Proof.Machine

/-! ### Words and bytes -/

@[simp] theorem lowByte_zext32 (b : Byte) : lowByte (zext32 b) = b := by
  rw [lowByte, zext32, BitVec.setWidth_setWidth_of_le _ (by decide), BitVec.setWidth_eq]

/-! ### Status words -/

/-- R58: the code of the event a byte selects is that byte. -/
theorem encode_classify (P : Params) (p : PortId) (b : Byte) : encode P (classify P.sc p b) = some (.status p (zext32 b)) := by
  unfold classify
  iterate 11
    refine iteInduction (motive := fun i => encode P i = some (.status p (zext32 b))) (fun hb => hb ▸ rfl) fun _ => ?_
  rfl

/-! ### Command headers -/

theorem headerOpcode_header {op : Nat} (h : op < 7) (p : PortId) : headerOpcode (header op p) = op := by
  have rows : ∀ n < 7, headerOpcode (header n p) = n := by cases p <;> decide
  exact rows op h

theorem header_zeroBits {op : Nat} (h : op < 7) (p : PortId) : header op p &&& 0x0C = 0 := by
  have rows : ∀ n < 7, header n p &&& 0x0C = 0 := by cases p <;> decide
  exact rows op h

/-- A header whose bits 3:2 are zero is its opcode and its port (R55). -/
theorem eq_header_fields : ∀ h : Byte, h &&& 0x0C = 0 → h = BitVec.ofNat 8 (16 * headerOpcode h + headerPort h) := by
  decide

theorem portOfNumber_eq_some_iff {n : Nat} {p : PortId} : portOfNumber n = some p ↔ n = p.index := by
  unfold portOfNumber
  split <;> cases p <;> simp [PortId.index]
  all_goals omega

theorem exists_index_eq_iff {n : Nat} : (∃ p : PortId, n = p.index) ↔ n < 3 := by
  constructor
  · rintro ⟨p, rfl⟩
    cases p <;> decide
  · intro h
    interval_cases n
    · exact ⟨.p0, rfl⟩
    · exact ⟨.p1, rfl⟩
    · exact ⟨.p2, rfl⟩

/-- When a request is a command (R65, R66 (c)): the fields of its header are legal, and the opcode's row gives the command. -/
theorem decodeRequest_eq_ok_iff {P : Params} {r : Request} {i : Instr} :
    decodeRequest P r = .ok i ↔
      r.header &&& 0x0C = 0 ∧ ∃ p : PortId, headerPort r.header = p.index ∧ p.index < P.nports ∧
        commandOf (headerOpcode r.header) p r.ops = .ok i := by
  unfold decodeRequest
  split
  · rename_i hzero
    exact ⟨(nomatch ·), fun h => absurd h.1 hzero⟩
  · rename_i hzero
    split
    · rename_i hport
      simp [← portOfNumber_eq_some_iff, hport]
    · rename_i p hport
      simp only [← portOfNumber_eq_some_iff, hport]
      split <;> simp_all

/-- The command a header gives with some operands. -/
theorem decode_header {P : Params} {op : Nat} {p : PortId} {o : Operands} {i : Instr} (hop : op < 7) (hp : p.index < P.nports)
    (hi : commandOf op p o = .ok i) : decode P (.command { header := header op p, ops := o }) = .ok i := by
  refine decodeRequest_eq_ok_iff.2 ⟨header_zeroBits hop p, p, Laws.CodePort.headerPort_header hop p, hp, ?_⟩
  rw [headerOpcode_header hop p]
  exact hi

/-- The opcodes with a row (R65), and the row's code of the command. -/
theorem encode_of_commandOf {P : Params} {op : Nat} {p : PortId} {o : Operands} {i : Instr} (h : commandOf op p o = .ok i) :
    op < 7 ∧ ∃ o', encode P i = some (.command { header := header op p, ops := o' }) ∧ commandOf op p o' = .ok i := by
  unfold commandOf at h
  split at h <;> cases h <;> exact ⟨by decide, _, rfl, rfl⟩

theorem commandOf_ok_iff {op : Nat} {p : PortId} {o : Operands} : (∃ i, commandOf op p o = .ok i) ↔ op < 7 := by
  constructor
  · rintro ⟨i, h⟩
    exact (encode_of_commandOf (P := Params.default) h).1
  · intro h
    interval_cases op <;> exact ⟨_, rfl⟩

/-! ### Register accesses -/

/-- What each word of R61 written to CONCLR decodes to: no earlier row has the same word, since a flag tells them apart. -/
theorem decodeConclr_words {f : FlagMasks} (h : FlagsSeparate f) (p : PortId) :
    decodeConclr f p (f.start ||| f.si) = .ok (.clearStartSI p) ∧ decodeConclr f p f.ack = .ok (.assertNack p) ∧
      decodeConclr f p f.si = .ok (.clearSI p) ∧ decodeConclr f p f.initClear = .ok (.initClear p) := by
  have ack_startSi : f.ack ≠ f.start ||| f.si :=
    ne_of_and_mask h.ack_ne BitVec.and_self (by rw [BitVec.and_or_distrib_right, h.start_ack, h.si_ack]; rfl)
  have startSi_si : f.start ||| f.si ≠ f.si :=
    ne_of_and_mask h.start_ne
      (by rw [BitVec.and_or_distrib_right, BitVec.and_self, BitVec.and_comm f.si, h.start_si]; exact BitVec.or_zero)
      (BitVec.and_comm .. ▸ h.start_si)
  have si_ack : f.si ≠ f.ack := ne_of_and_mask h.si_ne BitVec.and_self (BitVec.and_comm .. ▸ h.si_ack)
  have enable_in : f.initClear &&& f.enable = f.enable := by
    simp only [FlagMasks.initClear, BitVec.and_or_distrib_right, h.ack_enable, h.si_enable, h.start_enable,
      BitVec.and_self]
    exact BitVec.zero_or
  have clear_startSi : f.initClear ≠ f.start ||| f.si :=
    ne_of_and_mask h.enable_ne enable_in (by rw [BitVec.and_or_distrib_right, h.start_enable, h.si_enable]; rfl)
  have clear_ack : f.initClear ≠ f.ack := ne_of_and_mask h.enable_ne enable_in h.ack_enable
  have clear_si : f.initClear ≠ f.si := ne_of_and_mask h.enable_ne enable_in h.si_enable
  simp only [decodeConclr, ack_startSi, startSi_si.symm, si_ack, clear_startSi, clear_ack, clear_si, if_true, if_false, true_and]

theorem decodeConset_words {f : FlagMasks} (h : FlagsSeparate f) (p : PortId) :
    decodeConset f p f.start = .ok (.assertStart p) ∧ decodeConset f p f.stop = .ok (.assertStop p) ∧
      decodeConset f p f.ack = .ok (.assertAck p) ∧ decodeConset f p f.enable = .ok (.initEnable p) := by
  have stop_start : f.start ≠ f.stop := ne_of_and_mask h.start_ne BitVec.and_self (BitVec.and_comm .. ▸ h.start_stop)
  have ack_start : f.start ≠ f.ack := ne_of_and_mask h.start_ne BitVec.and_self (BitVec.and_comm .. ▸ h.start_ack)
  have ack_stop : f.stop ≠ f.ack := ne_of_and_mask h.stop_ne BitVec.and_self (BitVec.and_comm .. ▸ h.stop_ack)
  have enable_start : f.start ≠ f.enable := ne_of_and_mask h.start_ne BitVec.and_self (BitVec.and_comm .. ▸ h.start_enable)
  have enable_stop : f.stop ≠ f.enable := ne_of_and_mask h.stop_ne BitVec.and_self (BitVec.and_comm .. ▸ h.stop_enable)
  have enable_ack : f.ack ≠ f.enable := ne_of_and_mask h.ack_ne BitVec.and_self (BitVec.and_comm .. ▸ h.ack_enable)
  simp only [decodeConset, stop_start.symm, ack_start.symm, ack_stop.symm, enable_start.symm, enable_stop.symm,
    enable_ack.symm, if_true, if_false, true_and]

/-- An action that accesses decode to has those accesses as its code. -/
theorem encode_of_decodeAccess {P : Params} {p : PortId} {l : List Access} {i : Instr} (h : decodeAccess P p l = .ok i) :
    encode P i = some (.access p l) := by
  unfold decodeAccess at h
  split at h
  · unfold decodeOne at h
    split at h
    · unfold decodeConset at h
      repeat' split at h
      all_goals cases h
      all_goals subst_vars
      all_goals rfl
    · unfold decodeConclr at h
      repeat' split at h
      all_goals cases h
      all_goals subst_vars
      all_goals rfl
    · split at h <;> cases h
      rename_i hw
      rw [encode, ← hw]
    all_goals cases h
    all_goals rfl
  · split at h <;> cases h
    rename_i hw
    rw [encode, hw.1, hw.2]
  · cases h

/-! ### The obligations -/

/-- Settles O39, by cases on the row of the instruction: the status codes are distinct, the header's fields are read back, and the words of
the actions are told apart by their flags. -/
theorem decodeOfEncodeIsTheInstruction : Obligations.DecodeOfEncodeIsTheInstruction := by
  unfold Obligations.DecodeOfEncodeIsTheInstruction
  intro P i hP hi
  simp only [Instr.wf, Bool.and_eq_true, Instr.portExists, decide_eq_true_eq] at hi
  obtain ⟨⟨⟨hp, -⟩, -⟩, hbyte⟩ := hi
  obtain ⟨h1, h2, h3, h4, h5, h6, h7, h8, h9, h10, h11⟩ := classify_code_of_nodup (codes_nodup_of_wf hP) i.port
  have event : ∀ {b : Byte}, classify P.sc i.port b = i → decode P (.status i.port (zext32 b)) = .ok i := by
    intro b hb
    rw [decode, lowByte_zext32, hb]
  obtain ⟨hstart, hstop, hack, henable⟩ := decodeConset_words (flagsSeparate_of_wf hP) i.port
  obtain ⟨hstartSI, hnack, hsi, hclear⟩ := decodeConclr_words (flagsSeparate_of_wf hP) i.port
  cases i with
  | evStart p => exact .inr ⟨_, rfl, event h1⟩
  | evRstart p => exact .inr ⟨_, rfl, event h2⟩
  | evSlawAck p => exact .inr ⟨_, rfl, event h3⟩
  | evAddrNackWrite p => exact .inr ⟨_, rfl, event h4⟩
  | evTxdataAck p => exact .inr ⟨_, rfl, event h5⟩
  | evTxdataNack p => exact .inr ⟨_, rfl, event h6⟩
  | evArbLost p => exact .inr ⟨_, rfl, event h7⟩
  | evSlarAck p => exact .inr ⟨_, rfl, event h8⟩
  | evAddrNackRead p => exact .inr ⟨_, rfl, event h9⟩
  | evRxdataAck p => exact .inr ⟨_, rfl, event h10⟩
  | evRxdataNack p => exact .inr ⟨_, rfl, event h11⟩
  | evUnrecognised p b =>
    have hb : b ∉ P.sc.toList := by simpa [Instr.byteUnnamed] using hbyte
    exact .inr ⟨_, rfl, event ((classify_eq_evUnrecognised_iff ..).2 hb)⟩
  | init p | setHandler p _ | write p _ _ _ | read p _ _ _ _ _ | start p | stop p | getState p =>
    exact .inr ⟨_, rfl, decode_header (by decide) hp rfl⟩
  | engine p => exact .inl ⟨p, rfl⟩
  | assertStart p => exact .inr ⟨_, rfl, hstart⟩
  | assertStop p => exact .inr ⟨_, rfl, hstop⟩
  | assertAck p => exact .inr ⟨_, rfl, hack⟩
  | initEnable p => exact .inr ⟨_, rfl, henable⟩
  | clearStartSI p => exact .inr ⟨_, rfl, hstartSI⟩
  | assertNack p => exact .inr ⟨_, rfl, hnack⟩
  | clearSI p => exact .inr ⟨_, rfl, hsi⟩
  | initClear p => exact .inr ⟨_, rfl, hclear⟩
  | writeData p b => exact .inr ⟨_, rfl, by simp [decode, decodeAccess, decodeOne]⟩
  | readData p | readStatus p => exact .inr ⟨_, rfl, rfl⟩
  | initDivisors p => exact .inr ⟨_, rfl, if_pos ⟨rfl, rfl⟩⟩

/-- Settles O40, by cases on the form of the code. -/
theorem encodeOfDecodeIsTheCode : Obligations.EncodeOfDecodeIsTheCode := by
  unfold Obligations.EncodeOfDecodeIsTheCode
  intro P c i _ h
  cases c with
  | status p w =>
    cases h
    exact encode_classify P p (lowByte w)
  | command r =>
    obtain ⟨hzero, p, hport, hp, hcommand⟩ := decodeRequest_eq_ok_iff.1 h
    obtain ⟨hop, o, hcode, ho⟩ := encode_of_commandOf hcommand
    have hheader : header (headerOpcode r.header) p = r.header := by
      rw [header, ← hport, ← eq_header_fields _ hzero]
    have hdecode := decode_header hop hp ho
    rw [hheader] at hcode hdecode
    exact ⟨o, hcode, hdecode⟩
  | access p l => exact encode_of_decodeAccess h

/-- Settles O41: the zero bits and the port are the tests of `decodeRequest`, the opcode is that of a row; a number below NPORTS is the
number of a port, for there are at most three. -/
theorem headersAreCommandsExactlyWhen : Obligations.HeadersAreCommandsExactlyWhen := by
  unfold Obligations.HeadersAreCommandsExactlyWhen
  intro P h o hP
  simp only [decode, decodeRequest_eq_ok_iff]
  constructor
  · rintro ⟨i, hzero, p, hport, hp, hcommand⟩
    exact ⟨commandOf_ok_iff.1 ⟨i, hcommand⟩, hzero, hport.trans_lt hp⟩
  · rintro ⟨hop, hzero, hp⟩
    obtain ⟨p, hport⟩ := exists_index_eq_iff.2 (hp.trans_le (nports_le_of_wf hP))
    obtain ⟨i, hi⟩ := commandOf_ok_iff.2 hop
    exact ⟨i, hzero, p, hport, hport.symm.trans_lt hp, hi⟩

/-- Settles O38: the words one by one, with the default parameters. -/
theorem wordsOfTheSpecDecode : Obligations.WordsOfTheSpecDecode := by
  unfold Obligations.WordsOfTheSpecDecode
  decide

end Sys2Proof.Machine
end

section
/-! The invariant (10_state.md, R10, R13, R17; R102, R103, R105, R108, R109). It falls into what every state of a command's run has to
keep, `CoreSound`, and what the line to come needs, `LineSound`; the operations keep the first, and each line is shown to prepare the
second for the line after it. -/

namespace Sys2Proof.Machine

/-! ### The two halves of the invariant -/

/-- What the invariant asks of a command about to perform line `n`, with `S` the state seen last. -/
def LineSound (P : Params) (i : Instr) (n : Nat) (S : TxState) (tmo : Nat) : Prop :=
  i.isCommand = true ∧ (pastTest i n → fits P i) ∧ (tmoBelow i n → tmo < P.ceiling) ∧ waitedOn i n S

/-- What the invariant asks of ENGINE's caller. -/
def CallerSound (P : Params) (i : Instr) : Prop :=
  fits P i ∧ ((∃ p a d n, i = .write p a d n) ∨ ∃ p a d nw o nr, i = .read p a d nw o nr)

/-- The invariant but for the command in progress. -/
structure CoreSound (s : State) : Prop where
  params : s.params.wf = true
  ports : ∀ p, (s.port p).Sound s.params.cap
  tmo : s.tmo ≤ s.params.ceiling
  caller : ∀ i, s.cu.caller = some i → CallerSound s.params i
  memory : Memory.wf s.hostMem

theorem inv_iff {s : State} :
    s.Inv ↔ CoreSound s ∧ ∀ i, s.cu.cur = some i → LineSound s.params i s.cu.line s.cu.seen s.tmo := by
  constructor
  · rintro ⟨hparams, hports, htmo, ⟨hcur, hcaller⟩, hmem⟩
    exact ⟨⟨hparams, hports, htmo, hcaller, hmem⟩, hcur⟩
  · rintro ⟨⟨hparams, hports, htmo, hcaller, hmem⟩, hcur⟩
    exact ⟨hparams, hports, htmo, ⟨hcur, hcaller⟩, hmem⟩

variable {s t : State} {p : PortId} {i : Instr}

theorem port_eq_of_fields (h0 : t.port0 = s.port0) (h1 : t.port1 = s.port1) (h2 : t.port2 = s.port2) (q : PortId) :
    t.port q = s.port q := by
  cases q
  · exact h0
  · exact h1
  · exact h2

/-! ### What the operations keep -/

theorem CoreSound.of_ports_same (h : CoreSound s) (hparams : t.params = s.params) (hports : ∀ q, t.port q = s.port q)
    (htmo : t.tmo ≤ s.params.ceiling) (hcaller : t.cu.caller = s.cu.caller) (hmem : t.hostMem = s.hostMem) : CoreSound t := by
  refine ⟨hparams ▸ h.params, fun q => ?_, hparams ▸ htmo, fun i hi => ?_, hmem ▸ h.memory⟩
  · rw [hports, hparams]
    exact h.ports q
  · rw [hparams]
    exact h.caller i (hcaller ▸ hi)

theorem CoreSound.setPort {x : Port} (h : CoreSound s) (hx : x.Sound s.params.cap) : CoreSound (s.setPort p x) := by
  refine ⟨by simpa using h.params, fun q => ?_, by simpa using h.tmo, by simpa using h.caller, by simpa using h.memory⟩
  rw [setPort_port, setPort_params]
  split
  · exact hx
  · exact h.ports q

theorem CoreSound.modPort {f : Port → Port} (h : CoreSound s) (hf : ∀ x : Port, x.Sound s.params.cap → (f x).Sound s.params.cap) :
    CoreSound (s.modPort p f) :=
  h.setPort (hf _ (h.ports p))

theorem CoreSound.log {e : TraceEntry} (h : CoreSound s) : CoreSound (s.log e) :=
  h.of_ports_same rfl (log_port s · e) h.tmo rfl rfl

/-- Soundness of a port does not look at the bus controller's registers. -/
theorem sound_writeReg {x : Port} {cap : Nat} (r : WriteReg) (w : Word) (h : x.Sound cap) : (x.writeReg r w).Sound cap := by
  cases r <;> exact h

theorem CoreSound.regWrite {r : WriteReg} {w : Word} (h : CoreSound s) : CoreSound (regWrite p r w s) :=
  (h.modPort fun _ hx => sound_writeReg r w hx).log

theorem CoreSound.putState {S : TxState} (h : CoreSound s) (hS : S ≠ .dataAck ∧ S ≠ .dataNack) : CoreSound (putState p S s) :=
  h.modPort fun _ ⟨htx, hrx, hlen, hcur, hreq, hrcur, _⟩ => ⟨htx, hrx, hlen, hcur, hreq, hrcur, hS⟩

theorem CoreSound.irqEnable (h : CoreSound s) : CoreSound (irqEnable p s) :=
  CoreSound.log (h.modPort (f := fun x => { x with irqEn := true }) fun _ hx => hx)

theorem CoreSound.tmoReset (h : CoreSound s) : CoreSound (tmoReset s) :=
  h.of_ports_same rfl (tmoReset_port s) (Nat.zero_le _) rfl rfl

theorem CoreSound.tmoTick (h : CoreSound s) (ht : s.tmo < s.params.ceiling) : CoreSound (tmoTick s) :=
  h.of_ports_same rfl (tmoTick_port s) ht rfl rfl

theorem CoreSound.seeState (h : CoreSound s) : CoreSound (seeState p s) :=
  h.of_ports_same rfl (seeState_port s p) h.tmo rfl rfl

theorem CoreSound.hostWrite {a : Nat} {b : Byte} (h : CoreSound s) : CoreSound (s.hostWrite a b) := by
  refine ⟨h.params, fun q => ?_, h.tmo, h.caller, hostWrite_wf h.memory a b⟩
  rw [hostWrite_port]
  exact h.ports q

/-- A byte put into the transmit buffer. -/
theorem CoreSound.txbufSet {n : Nat} {b : Byte} (h : CoreSound s) :
    CoreSound (s.modPort p fun x => { x with txbuf := x.txbuf.set n b }) :=
  h.modPort fun _ ⟨htx, hrest⟩ => ⟨(List.length_set ..).trans htx, hrest⟩

theorem CoreSound.setTxlen {n : Nat} (h : CoreSound s) (hn : n ≤ s.params.cap) :
    CoreSound (s.modPort p fun x => { x with txlen := n }) :=
  h.modPort fun _ ⟨htx, hrx, _, hrest⟩ => ⟨htx, hrx, hn, hrest⟩

theorem CoreSound.setRxreq {n : Nat} (h : CoreSound s) (hn : n ≤ s.params.cap) :
    CoreSound (s.modPort p fun x => { x with rxreq := n }) :=
  h.modPort fun _ ⟨htx, hrx, hlen, hcur, _, hrest⟩ => ⟨htx, hrx, hlen, hcur, hn, hrest⟩

/-! ### What a line leaves for the next -/

theorem inv_goto {n : Nat} (h : CoreSound s) (hn : LineSound s.params i n s.cu.seen s.tmo) : (goto i n s).Inv :=
  inv_iff.2 ⟨h.of_ports_same rfl (goto_port s · i n) h.tmo rfl rfl, fun _ hi => by cases hi; exact hn⟩

theorem inv_goFor {n : Nat} (h : CoreSound s) (hn : LineSound s.params i n s.cu.seen s.tmo) : (goFor i n s).Inv :=
  inv_iff.2 ⟨h.of_ports_same rfl (goFor_port s · i n) h.tmo rfl rfl, fun _ hi => by cases hi; exact hn⟩

theorem inv_nextByte {n : Nat} (h : CoreSound s) (hn : LineSound s.params i n s.cu.seen s.tmo) : (nextByte i n s).Inv :=
  inv_iff.2 ⟨h.of_ports_same rfl (nextByte_port s · i n) h.tmo rfl rfl, fun _ hi => by cases hi; exact hn⟩

theorem inv_respond {r : Response} (h : CoreSound s) : (respond r s).Inv := by
  refine inv_iff.2 ⟨⟨h.params, fun q => ?_, h.tmo, nofun, h.memory⟩, nofun⟩
  rw [respond_port]
  exact h.ports q

/-- Every line of a command without a wait and without operands. -/
theorem lineSound_init {P : Params} {n tmo : Nat} {S : TxState} : LineSound P (.init p) n S tmo :=
  ⟨rfl, False.elim, False.elim, trivial⟩

theorem lineSound_write {P : Params} {n tmo a size : Nat} {d : HostArray} {S : TxState} (h : size + 1 ≤ P.cap) :
    LineSound P (.write p a d size) n S tmo :=
  ⟨rfl, fun _ => h, False.elim, trivial⟩

theorem lineSound_read {P : Params} {n tmo a nw nr : Nat} {d o : HostArray} {S : TxState} (h : nw + 2 ≤ P.cap ∧ nr ≤ P.cap) :
    LineSound P (.read p a d nw o nr) n S tmo :=
  ⟨rfl, fun _ => h, False.elim, trivial⟩

/-- What a line of ENGINE asks, as arithmetic. -/
theorem lineSound_engine {P : Params} {n tmo : Nat} {S : TxState} :
    LineSound P (.engine p) n S tmo ↔ (3 ≤ n ∧ n ≤ 6 → tmo < P.ceiling) ∧ (6 ≤ n ∧ n ≤ 8 → S.inflight = true) := by
  simp [LineSound, Instr.isCommand, pastTest, tmoBelow, waitedOn]

theorem inv_callEngine (h : CoreSound s) (hi : CallerSound s.params i) : (callEngine i s).Inv := by
  refine inv_iff.2 ⟨⟨h.params, fun q => ?_, h.tmo, fun j hj => ?_, h.memory⟩, fun j hj => ?_⟩
  · rw [callEngine_port]
    exact h.ports q
  · cases hj
    exact hi
  · cases hj
    have first : LineSound s.params (.engine i.port) 1 s.cu.seen s.tmo := lineSound_engine.2 ⟨by omega, by omega⟩
    exact first

theorem inv_engineReturn (h : CoreSound s) : (engineReturn s).Inv := by
  unfold engineReturn
  split
  · rename_i c hc
    refine inv_iff.2 ⟨⟨h.params, fun q => ?_, h.tmo, nofun, h.memory⟩, fun j hj => ?_⟩
    · rw [cu_port]
      exact h.ports q
    · cases hj
      obtain ⟨hfits, ⟨p, a, d, n, rfl⟩ | ⟨p, a, d, nw, o, nr, rfl⟩⟩ := h.caller _ hc
      · exact lineSound_write hfits
      · exact lineSound_read hfits
  · exact inv_respond h

/-! ### The commands, line by line -/

theorem inv_exec_init (h : CoreSound s) (hexec : exec (.init p) s = .next t) : t.Inv := by
  obtain ⟨-, hexec⟩ := (withPort_next ..).1 hexec
  split at hexec <;> cases hexec
  · exact inv_goto h.regWrite lineSound_init
  · exact inv_goto h.regWrite lineSound_init
  · split
    · exact inv_goto h.regWrite lineSound_init
    · exact inv_goto h lineSound_init
  · exact inv_goto h.irqEnable lineSound_init
  · exact inv_respond (h.putState ⟨nofun, nofun⟩)
  · exact inv_goto h.regWrite lineSound_init

theorem inv_exec_setHandler {k : Option Handle} (h : CoreSound s) (hexec : exec (.setHandler p k) s = .next t) : t.Inv := by
  obtain ⟨-, hexec⟩ := (withPort_next ..).1 hexec
  cases hexec
  exact inv_respond (h.modPort fun _ hx => hx)

theorem inv_exec_getState (h : CoreSound s) (hexec : exec (.getState p) s = .next t) : t.Inv := by
  obtain ⟨-, hexec⟩ := (withPort_next ..).1 hexec
  cases hexec
  exact inv_respond h

/-- The lines of WRITE past the capacity test (R102). -/
theorem inv_exec_write {a size : Nat} {d : HostArray} (h : CoreSound s)
    (hline : LineSound s.params (.write p a d size) s.cu.line s.cu.seen s.tmo)
    (hexec : exec (.write p a d size) s = .next t) : t.Inv := by
  obtain ⟨-, hfits, -, -⟩ := hline
  obtain ⟨-, hexec⟩ := (withPort_next ..).1 hexec
  obtain ⟨-, hexec⟩ := (withArray_next ..).1 hexec
  have length (hfits : size + 1 ≤ s.params.cap) (hnext : writeLength p (.write p a d size) size s = .next t) : t.Inv := by
    cases hnext
    exact inv_goto (h.setTxlen hfits) (lineSound_write (by simpa using hfits))
  split at hexec
  case h_1 e =>
    obtain ⟨-, hexec⟩ := (txPut_next ..).1 hexec
    cases hexec
    exact inv_goFor h.txbufSet (lineSound_write (by simpa [fits] using hfits (by simp [pastTest, e])))
  case h_2 e =>
    have hfits := hfits (by simp [pastTest, e])
    split at hexec
    · obtain ⟨-, hexec⟩ := (txPut_next ..).1 hexec
      cases hexec
      exact inv_nextByte h.txbufSet (lineSound_write (by simpa [fits] using hfits))
    · exact length hfits hexec
  case h_3 e => exact length (hfits (by simp [pastTest, e])) hexec
  case h_4 e =>
    cases hexec
    exact inv_goto (h.setRxreq (Nat.zero_le _)) (lineSound_write (by simpa [fits] using hfits (by simp [pastTest, e])))
  case h_5 e =>
    cases hexec
    exact inv_callEngine h ⟨hfits (by simp [pastTest, e]), .inl ⟨_, _, _, _, rfl⟩⟩
  case h_6 =>
    cases hexec
    exact inv_respond h
  case h_7 =>
    split at hexec <;> cases hexec
    · exact inv_respond h
    · exact inv_goto h (lineSound_write (by omega))

/-- The lines of READ, each behind the capacity test of line 0 (R103). -/
theorem inv_exec_read {a nw nr : Nat} {d o : HostArray} (h : CoreSound s)
    (hexec : exec (.read p a d nw o nr) s = .next t) : t.Inv := by
  obtain ⟨-, hexec⟩ := (withPort_next ..).1 hexec
  obtain ⟨-, hexec⟩ := (withArray_next ..).1 hexec
  obtain ⟨-, hexec⟩ := (withArray_next ..).1 hexec
  obtain ⟨hfits, hexec⟩ := (withCapacity_next ..).1 hexec
  have address (hnext : readAddress p (.read p a d nw o nr) a nw s = .next t) : t.Inv := by
    obtain ⟨-, hnext⟩ := (txPut_next ..).1 hnext
    cases hnext
    exact inv_goto h.txbufSet (lineSound_read (by simpa using hfits))
  split at hexec
  case h_1 =>
    obtain ⟨-, hexec⟩ := (txPut_next ..).1 hexec
    cases hexec
    exact inv_goFor h.txbufSet (lineSound_read (by simpa using hfits))
  case h_2 =>
    split at hexec
    · obtain ⟨-, hexec⟩ := (txPut_next ..).1 hexec
      cases hexec
      exact inv_nextByte h.txbufSet (lineSound_read (by simpa using hfits))
    · exact address hexec
  case h_3 => exact address hexec
  case h_4 =>
    cases hexec
    exact inv_goto (h.setTxlen (by omega)) (lineSound_read (by simpa using hfits))
  case h_5 =>
    cases hexec
    exact inv_goto (h.setRxreq hfits.2) (lineSound_read (by simpa using hfits))
  case h_6 =>
    cases hexec
    exact inv_callEngine h ⟨hfits, .inr ⟨_, _, _, _, _, _, rfl⟩⟩
  case h_7 =>
    split at hexec
    · obtain ⟨b, -, hexec⟩ := (rxFetch_next ..).1 hexec
      cases hexec
      exact inv_nextByte h.hostWrite (lineSound_read hfits)
    · cases hexec
      exact inv_respond h
  case h_8 =>
    cases hexec
    exact inv_respond h
  case h_9 =>
    cases hexec
    exact inv_goto h (lineSound_read hfits)

/-- R104 to R106: `tmo` is reset at line 2, ticks below the ceiling at line 6, and is tested before it is read again. -/
theorem inv_exec_engine (h : CoreSound s) (hline : LineSound s.params (.engine p) s.cu.line s.cu.seen s.tmo)
    (hexec : exec (.engine p) s = .next t) : t.Inv := by
  obtain ⟨htmo, hseen⟩ := lineSound_engine.1 hline
  have hceil := ceiling_pos_of_wf h.params
  obtain ⟨-, hexec⟩ := (withPort_next ..).1 hexec
  split at hexec <;> cases hexec
  case h_1 => exact inv_goto h.tmoReset (lineSound_engine.2 ⟨fun _ => hceil, by omega⟩)
  case h_2 e =>
    have hbelow := htmo (by omega)
    exact inv_goto h.regWrite (lineSound_engine.2 ⟨fun _ => by simpa [actAssertStart] using hbelow, by omega⟩)
  case h_3 e =>
    have hbelow := htmo (by omega)
    exact inv_goto h.seeState (lineSound_engine.2 ⟨fun _ => hbelow, by omega⟩)
  case h_4 e =>
    have hbelow := htmo (by omega)
    refine inv_goto h (lineSound_engine.2 ⟨fun _ => hbelow, ?_⟩)
    split
    · exact fun _ => ‹_›
    · omega
  case h_5 e => exact inv_goto (h.tmoTick (htmo (by omega))) (lineSound_engine.2 ⟨by omega, fun _ => hseen (by omega)⟩)
  case h_6 e =>
    have hle := h.tmo
    refine inv_goto h (lineSound_engine.2 ⟨?_, fun _ => hseen (by omega)⟩)
    split <;> omega
  case h_7 => exact inv_goto (h.putState ⟨nofun, nofun⟩) (lineSound_engine.2 ⟨by omega, by omega⟩)
  case h_8 =>
    exact inv_goto (h.of_ports_same rfl (cu_port s · _) h.tmo rfl rfl) (lineSound_engine.2 ⟨by omega, by omega⟩)
  case h_9 => exact inv_engineReturn h
  case h_10 => exact inv_goto (h.putState ⟨nofun, nofun⟩) (lineSound_engine.2 ⟨by omega, by omega⟩)

theorem lineSound_start {P : Params} {n tmo : Nat} {S : TxState} :
    LineSound P (.start p) n S tmo ↔ (3 ≤ n ∧ n ≤ 7 → tmo < P.ceiling) ∧ (6 ≤ n ∧ n ≤ 9 → S = .busy) := by
  simp [LineSound, Instr.isCommand, pastTest, tmoBelow, waitedOn]

/-- R108, as `inv_exec_engine`; an unbounded wait goes back to line 4 without a tick. -/
theorem inv_exec_start (h : CoreSound s) (hline : LineSound s.params (.start p) s.cu.line s.cu.seen s.tmo)
    (hexec : exec (.start p) s = .next t) : t.Inv := by
  obtain ⟨htmo, hseen⟩ := lineSound_start.1 hline
  have hceil := ceiling_pos_of_wf h.params
  obtain ⟨-, hexec⟩ := (withPort_next ..).1 hexec
  split at hexec <;> cases hexec
  case h_1 => exact inv_goto h.tmoReset (lineSound_start.2 ⟨fun _ => hceil, by omega⟩)
  case h_2 e =>
    have hbelow := htmo (by omega)
    exact inv_goto h.regWrite (lineSound_start.2 ⟨fun _ => by simpa [actAssertStart] using hbelow, by omega⟩)
  case h_3 e =>
    have hbelow := htmo (by omega)
    exact inv_goto h.seeState (lineSound_start.2 ⟨fun _ => hbelow, by omega⟩)
  case h_4 e =>
    have hbelow := htmo (by omega)
    refine inv_goto h (lineSound_start.2 ⟨fun _ => hbelow, ?_⟩)
    split
    · exact fun _ => ‹_›
    · omega
  case h_5 e =>
    have hbelow := htmo (by omega)
    exact inv_goto h (lineSound_start.2 ⟨fun _ => hbelow, fun _ => hseen (by omega)⟩)
  case h_6 e => exact inv_goto (h.tmoTick (htmo (by omega))) (lineSound_start.2 ⟨by omega, fun _ => hseen (by omega)⟩)
  case h_7 e =>
    have hle := h.tmo
    refine inv_goto h (lineSound_start.2 ⟨?_, fun _ => hseen (by omega)⟩)
    split <;> omega
  case h_8 => exact inv_goto (h.putState ⟨nofun, nofun⟩) (lineSound_start.2 ⟨by omega, by omega⟩)
  case h_9 => exact inv_respond h
  case h_10 => exact inv_goto (h.putState ⟨nofun, nofun⟩) (lineSound_start.2 ⟨by omega, by omega⟩)

theorem lineSound_stop {P : Params} {n tmo : Nat} {S : TxState} :
    LineSound P (.stop p) n S tmo ↔ (2 ≤ n ∧ n ≤ 5 → tmo < P.ceiling) := by
  simp [LineSound, Instr.isCommand, pastTest, tmoBelow, waitedOn]

/-- R109: the wait of STOP, with the tick at line 5. -/
theorem inv_exec_stop (h : CoreSound s) (hline : LineSound s.params (.stop p) s.cu.line s.cu.seen s.tmo)
    (hexec : exec (.stop p) s = .next t) : t.Inv := by
  have htmo := lineSound_stop.1 hline
  have hceil := ceiling_pos_of_wf h.params
  obtain ⟨-, hexec⟩ := (withPort_next ..).1 hexec
  split at hexec <;> cases hexec
  case h_1 e =>
    have hbelow := htmo (by omega)
    exact inv_goto h.regWrite (lineSound_stop.2 fun _ => by simpa [actAssertStop] using hbelow)
  case h_2 e =>
    have hbelow := htmo (by omega)
    have hread : CoreSound (regRead p .conset s) := h.log
    split
    · exact inv_goto hread (lineSound_stop.2 fun _ => by simpa using hbelow)
    · exact inv_respond hread
  case h_3 e =>
    have hbelow := htmo (by omega)
    exact inv_goto h (lineSound_stop.2 fun _ => hbelow)
  case h_4 e => exact inv_goto (h.tmoTick (htmo (by omega))) (lineSound_stop.2 (by omega))
  case h_5 e =>
    have hle := h.tmo
    split
    · exact inv_respond h
    · exact inv_goto h (lineSound_stop.2 (by omega))
  case h_6 => exact inv_goto h.tmoReset (lineSound_stop.2 fun _ => hceil)

/-- A line of a command keeps the invariant. -/
theorem inv_exec_command (h : CoreSound s) (hline : LineSound s.params i s.cu.line s.cu.seen s.tmo)
    (hexec : exec i s = .next t) : t.Inv := by
  have hcommand := hline.1
  cases i with
  | init p => exact inv_exec_init h hexec
  | setHandler p k => exact inv_exec_setHandler h hexec
  | write p a d size => exact inv_exec_write h hline hexec
  | read p a d nw o nr => exact inv_exec_read h hexec
  | start p => exact inv_exec_start h hline hexec
  | stop p => exact inv_exec_stop h hline hexec
  | getState p => exact inv_exec_getState h hexec
  | engine p => exact inv_exec_engine h hline hexec
  | _ => cases hcommand

/-! ### Events, actions, the outside world -/

/-- An event leaves a sound port sound: a cursor moves only over a byte that the buffer has (R43 to R45). -/
theorem eventEffect_sound {P : Params} {x y : Port} {es : List TraceEntry} (h : EventEffect P x i y es) (hx : x.Sound P.cap) :
    y.Sound P.cap := by
  obtain ⟨htx, hrx, hlen, hcur, hreq, hrcur, hack, hnack⟩ := hx
  cases h with
  | start _ _ hb =>
    have := (List.getElem?_eq_some_iff.1 hb).1
    exact ⟨htx, hrx, hlen, htx ▸ this, hreq, hrcur, nofun, nofun⟩
  | rstart => exact ⟨htx, hrx, hlen, hcur, hreq, Nat.zero_le _, nofun, nofun⟩
  | send _ _ _ _ hc => exact ⟨htx, hrx, hlen, hc.trans_le hlen, hreq, hrcur, hack, hnack⟩
  | restart | slarMore | slarLast | clear => exact ⟨htx, hrx, hlen, hcur, hreq, hrcur, hack, hnack⟩
  | finish _ _ S hi =>
    refine ⟨htx, hrx, hlen, hcur, hreq, hrcur, ?_⟩
    rcases hi with ⟨-, rfl, -⟩ | ⟨-, rfl, -⟩ | ⟨-, rfl⟩ | ⟨-, rfl⟩ | ⟨-, rfl⟩ <;> exact ⟨nofun, nofun⟩
  | storeMore _ hb | storeLast _ hb =>
    exact ⟨htx, (List.length_set ..).trans hrx, hlen, hcur, hreq, hrx ▸ hb, hack, hnack⟩
  | storeEnd _ hb => exact ⟨htx, (List.length_set ..).trans hrx, hlen, hcur, hreq, hrx ▸ hb, nofun, nofun⟩
  | lost => exact ⟨htx, hrx, hlen, hcur, hreq, hrcur, nofun, nofun⟩

/-- The invariant looks at parameters, ports, tmo, command unit and host memory only. -/
theorem inv_congr (h : s.Inv) (hparams : t.params = s.params) (hports : ∀ q, (t.port q).Sound s.params.cap)
    (htmo : t.tmo = s.tmo) (hcu : t.cu = s.cu) (hmem : Memory.wf t.hostMem) : t.Inv := by
  obtain ⟨hwf, -, hle, hunit, -⟩ := h
  refine ⟨hparams ▸ hwf, hparams ▸ hports, by rw [htmo, hparams]; exact hle, ?_, hmem⟩
  unfold State.UnitSound
  rw [hcu, htmo, hparams]
  exact hunit

theorem inv_exec_event (h : s.Inv) (hi : i.isEvent = true) (hexec : exec i s = .next t) : t.Inv := by
  obtain ⟨-, y, es, heffect, hport, -, -, hcu, htmo, -, hothers, hparams, hmem, -⟩ := event_next hi hexec
  have ⟨_, hsound, _, _, hwf⟩ := h
  refine inv_congr h hparams (fun q => ?_) htmo hcu (hmem ▸ hwf)
  by_cases hq : q = i.port
  · rw [hq, hport]
    exact eventEffect_sound heffect (hsound _)
  · rw [hothers q hq]
    exact hsound q

/-- An action changes registers of the bus controller only. -/
theorem action_port (hc : i.isCommand = false) (he : i.isEvent = false) (hexec : exec i s = .next t) (q : PortId) :
    ∃ c d u v, t.port q = { s.port q with ctl := c, dat := d, sclh := u, scll := v } := by
  by_cases hq : q = i.port
  · subst hq
    cases i with
    | init _ | setHandler _ _ | write _ _ _ _ | read _ _ _ _ _ _ | start _ | stop _ | getState _ | engine _ => cases hc
    | evStart _ | evRstart _ | evSlawAck _ | evAddrNackWrite _ | evTxdataAck _ | evTxdataNack _ | evArbLost _ | evSlarAck _
    | evAddrNackRead _ | evRxdataAck _ | evRxdataNack _ | evUnrecognised _ _ => cases he
    | readData p | readStatus p =>
      obtain ⟨_, hexec⟩ := (withPort_next ..).1 hexec
      cases hexec
      exact ⟨_, _, _, _, regRead_port ..⟩
    | initDivisors p =>
      obtain ⟨_, hexec⟩ := (withPort_next ..).1 hexec
      cases hexec
      exact ⟨(s.port p).ctl, (s.port p).dat, s.params.clkHigh, s.params.clkLow, by
        simp [Instr.port, actDivisorLow, actDivisorHigh]⟩
    | _ =>
      obtain ⟨_, hexec⟩ := (withPort_next ..).1 hexec
      cases hexec
      exact ⟨_, _, _, _, regWrite_port_same ..⟩
  · obtain ⟨_, hstep⟩ := action_next hc he hexec
    exact ⟨_, _, _, _, hstep.others q hq⟩

theorem inv_exec_action (h : s.Inv) (hc : i.isCommand = false) (he : i.isEvent = false) (hexec : exec i s = .next t) :
    t.Inv := by
  obtain ⟨_, hstep⟩ := action_next hc he hexec
  obtain ⟨hcu, htmo, -, hmem⟩ := action_keeps hc he hexec
  have ⟨_, hsound, _, _, hwf⟩ := h
  refine inv_congr h hstep.params (fun q => ?_) htmo hcu (hmem ▸ hwf)
  obtain ⟨c, d, u, v, hport⟩ := action_port hc he hexec q
  rw [hport]
  exact hsound q

theorem inv_outside (h : s.Inv) (hout : OutsideStep s t) : t.Inv := by
  have ⟨_, hsound, _, _, hwf⟩ := h
  refine inv_congr h hout.params (fun q => ?_) hout.tmo hout.cu (hout.hostMem hwf)
  rw [hout.port]
  exact hsound q

/-- A request that decodes starts a command at a line that asks nothing. -/
theorem lineSound_accepted {P : Params} {S : TxState} {tmo : Nat} (hi : i.isCommand = true) : LineSound P i 0 S tmo := by
  cases i with
  | init _ | setHandler _ _ | write _ _ _ _ | read _ _ _ _ _ _ | start _ | stop _ | getState _ | engine _ =>
    simp [LineSound, hi, pastTest, tmoBelow, waitedOn]
  | _ => cases hi

theorem coreSound_idle (h : CoreSound s) {l : List Turn} {n : Nat} {m : List Request} :
    CoreSound { s with agenda := l, draws := n, requests := m, cu := .idle } :=
  ⟨h.params, fun q => port_eq_of_fields (s := s) rfl rfl rfl q ▸ h.ports q, h.tmo, nofun, h.memory⟩

/-- Settles O45, by cases on what the step runs. -/
theorem stepKeepsTheInvariant : Obligations.StepKeepsTheInvariant := by
  unfold Obligations.StepKeepsTheInvariant
  intro s t h hstep
  obtain ⟨l, n, hruns⟩ := step_runs s
  obtain ⟨hcore, hcur⟩ := inv_iff.1 h
  generalize step s = r at hstep hruns
  have turns : ({ s with agenda := l, draws := n } : State).Inv := inv_outside h (outsideStep_turns s l n)
  cases hruns with
  | event p _ _ =>
    have hread : (actReadStatus p { s with agenda := l, draws := n }).Inv := by
      refine inv_congr turns rfl (fun q => ?_) rfl rfl hcore.memory
      rw [actReadStatus, regRead_port]
      exact turns.2.1 q
    exact inv_exec_event hread (classify_isEvent ..) hstep
  | line i _ hi => exact inv_exec_command (inv_iff.1 turns).1 (hcur i hi) hstep
  | accept r m i _ _ _ hcode =>
    exact inv_exec_command (coreSound_idle hcore) (lineSound_accepted (decodeRequest_isCommand hcode)) hstep
  | injected p a i _ hcode =>
    obtain ⟨he, hc⟩ := decodeAccess_kind hcode
    have hslot : ({ s with agenda := l, draws := n, inject := none } : State).Inv :=
      inv_congr turns rfl (fun q => port_eq_of_fields (s := s) rfl rfl rfl q ▸ hcore.ports q) rfl rfl hcore.memory
    exact inv_exec_action hslot hc he hstep
  | undecodable _ => cases hstep
  | outside _ hout _ _ =>
    cases hstep
    exact inv_outside h hout

end Sys2Proof.Machine
end

section
/-! The writes of the state register (R131), for events, commands and so for every step. -/

namespace Sys2Proof.Machine

variable {s t : State} {i : Instr}

/-- What an event makes of the state register is what the table says, and never TIME_OUT. -/
theorem eventEffect_state {x y : Port} {es : List TraceEntry} (hx : s.port i.port = x) (h : EventEffect s.params x i y es) :
    y.state = x.state ∨ (y.state ≠ .timeOut ∧ writesState i s y.state) := by
  cases h with
  | start => exact .inr ⟨nofun, rfl⟩
  | rstart => exact .inr ⟨nofun, rfl⟩
  | send | restart | slarMore | slarLast | storeMore | storeLast | clear => exact .inl rfl
  | finish i p S hi =>
    rcases hi with ⟨rfl, rfl, hc⟩ | ⟨rfl, rfl, hc⟩ | ⟨rfl, rfl⟩ | ⟨rfl, rfl⟩ | ⟨rfl, rfl⟩
    · subst hx
      exact .inr ⟨nofun, rfl, hc⟩
    · subst hx
      exact .inr ⟨nofun, rfl, hc⟩
    all_goals exact .inr ⟨nofun, rfl⟩
  | storeEnd => exact .inr ⟨nofun, rfl⟩
  | lost _ hset => exact .inr ⟨nofun, rfl, hset⟩

/-- An action writes no state. -/
theorem not_writesState_of_action {S : TxState} (hc : i.isCommand = false) (he : i.isEvent = false) : ¬ writesState i s S := by
  cases i with
  | init _ | setHandler _ _ | write _ _ _ _ | read _ _ _ _ _ _ | start _ | stop _ | getState _ | engine _ => cases hc
  | evStart _ | evRstart _ | evSlawAck _ | evAddrNackWrite _ | evTxdataAck _ | evTxdataNack _ | evArbLost _ | evSlarAck _
  | evAddrNackRead _ | evRxdataAck _ | evRxdataNack _ | evUnrecognised _ _ => cases he
  | _ => exact id

/-- A command writes TIME_OUT at one line of a wait only (R105, R108). -/
theorem writesState_timeOut (hc : i.isCommand = true) (h : writesState i s .timeOut) :
    (i = .engine i.port ∧ s.cu.line = 8) ∨ (i = .start i.port ∧ s.cu.line = 9) := by
  cases i with
  | init p => exact absurd h.1 nofun
  | engine p =>
    rcases h with ⟨h, -⟩ | ⟨-, hline⟩
    · cases h
    · exact .inl ⟨rfl, hline⟩
  | start p =>
    rcases h with ⟨h, -⟩ | ⟨-, hline⟩
    · cases h
    · exact .inr ⟨rfl, hline⟩
  | setHandler _ _ | write _ _ _ _ | read _ _ _ _ _ _ | stop _ | getState _ => exact h.elim
  | _ => cases hc

/-- An instruction changes the state register of its own port only, and as tabled. -/
theorem exec_writesState {q : PortId} (hexec : exec i s = .next t) (hne : (t.port q).state ≠ (s.port q).state) :
    i.port = q ∧ writesState i s (t.port q).state ∧ (i.isEvent = true → (t.port q).state ≠ .timeOut) := by
  have own (hothers : ∀ q, q ≠ i.port → t.port q = s.port q) : i.port = q := by
    by_contra hq
    exact hne (congrArg Port.state (hothers q (Ne.symm hq)))
  cases he : i.isEvent with
  | true =>
    obtain ⟨-, y, es, heffect, hport, -, -, -, -, -, hothers, -⟩ := event_next he hexec
    obtain rfl := own hothers
    rw [hport] at hne ⊢
    obtain ⟨hnot, hwrites⟩ := (eventEffect_state rfl heffect).resolve_left hne
    exact ⟨rfl, hwrites, fun _ => hnot⟩
  | false =>
    obtain ⟨es, hstep⟩ := foreground_next he hexec
    obtain rfl := own hstep.others
    exact ⟨rfl, hstep.state.resolve_left hne, nofun⟩

/-- Settles O47, by cases on what the step runs; that a TIME_OUT comes after a state to wait on is the invariant at the line that writes
it. -/
theorem stateIsWrittenOnlyAsTabled : Obligations.StateIsWrittenOnlyAsTabled := by
  unfold Obligations.StateIsWrittenOnlyAsTabled
  intro s t q h hstep hne
  obtain ⟨l, n, hruns⟩ := step_runs s
  obtain ⟨-, hcur⟩ := inv_iff.1 h
  generalize step s = r at hstep hruns
  cases hruns with
  | event p _ _ =>
    have hread : ∀ r, (actReadStatus p { s with agenda := l, draws := n }).port r = s.port r := fun r => by
      rw [actReadStatus, regRead_port]
      exact port_eq_of_fields rfl rfl rfl r
    obtain ⟨hport, hwrites, hnot⟩ := exec_writesState hstep ((hread q).symm ▸ hne)
    exact ⟨_, _, hread, rfl, hstep, hport, hwrites, fun h => absurd h (hnot (classify_isEvent ..))⟩
  | line i _ hi =>
    have hports : ∀ r, ({ s with agenda := l, draws := n } : State).port r = s.port r := port_eq_of_fields rfl rfl rfl
    obtain ⟨hcommand, -, -, hwaited⟩ := hcur i hi
    obtain ⟨rfl, hwrites, -⟩ := exec_writesState hstep ((hports q).symm ▸ hne)
    refine ⟨_, _, hports, rfl, hstep, rfl, hwrites, fun htimeout => ⟨rfl, ?_⟩⟩
    rw [htimeout] at hwrites
    rcases writesState_timeOut hcommand hwrites with ⟨hi, hline⟩ | ⟨hi, hline⟩
    · rw [hi] at hwaited
      have hline : s.cu.line = 8 := hline
      exact .inl ⟨hi, hwaited (by omega)⟩
    · rw [hi] at hwaited
      have hline : s.cu.line = 9 := hline
      exact .inr ⟨hi, hwaited (by omega)⟩
  | accept r m i _ _ _ hcode =>
    have hports : ∀ r, ({ s with agenda := l, draws := n, requests := m, cu := .idle } : State).port r = s.port r :=
      port_eq_of_fields rfl rfl rfl
    obtain ⟨rfl, hwrites, -⟩ := exec_writesState hstep ((hports q).symm ▸ hne)
    refine ⟨_, _, hports, rfl, hstep, rfl, hwrites, fun htimeout => ?_⟩
    rw [htimeout] at hwrites
    rcases writesState_timeOut (decodeRequest_isCommand hcode) hwrites with ⟨-, hline⟩ | ⟨-, hline⟩ <;> cases hline
  | injected p a i _ hcode =>
    obtain ⟨he, hc⟩ := decodeAccess_kind hcode
    have hports : ∀ r, ({ s with agenda := l, draws := n, inject := none } : State).port r = s.port r :=
      port_eq_of_fields rfl rfl rfl
    obtain ⟨-, hwrites, -⟩ := exec_writesState hstep ((hports q).symm ▸ hne)
    exact absurd hwrites (not_writesState_of_action hc he)
  | undecodable _ => cases hstep
  | outside _ hout _ _ =>
    cases hstep
    exact absurd (congrArg Port.state (hout.port q)) hne

end Sys2Proof.Machine
end

section
/-! The three outcomes of an event (R45, R121): an effect, an overrun, or a port that does not exist. With `EventEffect` for the first and
`EventOverrun` for the second, what an event does follows from its port alone. -/

namespace Sys2Proof.Machine

variable {s t : State} {p : PortId} {i : Instr} {f : Fault}

/-- An instruction on a port that does not exist is refused by name (R66 (c)). -/
theorem exec_noSuchPort (hp : s.params.nports ≤ i.port.index) : exec i s = .refused (.noSuchPort i.port) := by
  cases i <;> exact if_neg hp.not_gt

/-- The accesses of an event outside its buffers (R45): the event at `s`, the buffer and the index, and the state the access is made in. -/
inductive EventOverrun (s : State) : Instr → Buffer → Nat → State → Prop where
  | start (p : PortId) (h : (s.port p).txbuf.length ≤ 0) :
      EventOverrun s (.evStart p) .tx 0 (s.modPort p fun x => { x with txcur := 0 })
  | rstart (p : PortId) (h : (s.port p).txbuf.length ≤ (s.port p).txlen) :
      EventOverrun s (.evRstart p) .tx (s.port p).txlen (s.modPort p fun x => { x with rxcur := 0 })
  | send (i : Instr) (p : PortId) (hi : i = .evSlawAck p ∨ i = .evTxdataAck p) (hc : (s.port p).txcur < (s.port p).txlen)
      (h : (s.port p).txbuf.length ≤ (s.port p).txcur) : EventOverrun s i .tx (s.port p).txcur s
  | store (i : Instr) (p : PortId) (hi : i = .evRxdataAck p ∨ i = .evRxdataNack p)
      (h : (s.port p).rxbuf.length ≤ (s.port p).rxcur) :
      EventOverrun s i .rx (s.port p).rxcur (s.log (.regRead p .dat (s.port p).dat))

theorem exec_fault_of_overrun {which : Buffer} {n : Nat} (hp : i.port.index < s.params.nports)
    (h : EventOverrun s i which n t) : exec i s = .fault (.bufferOverrun i.port which n t) := by
  cases h with
  | start p h =>
    have hnone : ((s.modPort p fun x => { x with txcur := 0 }).port p).txbuf[
        ((s.modPort p fun x => { x with txcur := 0 }).port p).txcur]? = none := by
      rw [modPort_port_same]
      exact List.getElem?_eq_none h
    refine ((withPort_pos _ _ hp).trans (txFetch_none _ _ hnone)).trans ?_
    rw [modPort_port_same]
    rfl
  | rstart p h =>
    have hnone : ((s.modPort p fun x => { x with rxcur := 0 }).port p).txbuf[(s.port p).txlen]? = none := by
      rw [modPort_port_same]
      exact List.getElem?_eq_none h
    exact (withPort_pos _ _ hp).trans (txFetch_none _ _ hnone)
  | send i p hi hc h =>
    rcases hi with rfl | rfl <;>
      exact (withPort_pos _ _ hp).trans ((if_pos hc).trans (txFetch_none _ _ (List.getElem?_eq_none h)))
  | store i p hi h =>
    have hfull : ((actReadData p s).port p).rxbuf.length ≤ ((actReadData p s).port p).rxcur := by
      rw [actReadData, regRead_port]
      exact h
    have hfault := fun ks => (rxStore_fault _ p (dataByte p s) (ks := ks)).2 (.inl ⟨hfull, rfl⟩)
    rw [actReadData, regRead_port] at hfault
    rcases hi with rfl | rfl <;> exact (withPort_pos _ _ hp).trans (hfault _)

/-- Of an event on its port either a form applies or an access overruns: each condition of a form is opposed to the next one's, down to
whether the buffer has the byte. -/
theorem eventEffect_or_overrun (s : State) (hi : i.isEvent = true) :
    (∃ y es, EventEffect s.params (s.port i.port) i y es) ∨ ∃ which n t, EventOverrun s i which n t := by
  cases i with
  | evStart p =>
    cases hb : (s.port p).txbuf[0]? with
    | some b => exact .inl ⟨_, _, .start p b hb⟩
    | none => exact .inr ⟨_, _, _, .start p (List.getElem?_eq_none_iff.1 hb)⟩
  | evRstart p =>
    cases hb : (s.port p).txbuf[(s.port p).txlen]? with
    | some b => exact .inl ⟨_, _, .rstart p b hb⟩
    | none => exact .inr ⟨_, _, _, .rstart p (List.getElem?_eq_none_iff.1 hb)⟩
  | evSlawAck p =>
    rcases Nat.lt_or_ge (s.port p).txcur (s.port p).txlen with hc | hc
    · cases hb : (s.port p).txbuf[(s.port p).txcur]? with
      | some b => exact .inl ⟨_, _, .send _ p b (.inl rfl) hc hb⟩
      | none => exact .inr ⟨_, _, _, .send _ p (.inl rfl) hc (List.getElem?_eq_none_iff.1 hb)⟩
    · exact .inl ⟨_, _, .finish _ p _ (.inl ⟨rfl, rfl, hc⟩)⟩
  | evTxdataAck p =>
    rcases Nat.lt_or_ge (s.port p).txcur (s.port p).txlen with hc | hc
    · cases hb : (s.port p).txbuf[(s.port p).txcur]? with
      | some b => exact .inl ⟨_, _, .send _ p b (.inr rfl) hc hb⟩
      | none => exact .inr ⟨_, _, _, .send _ p (.inr rfl) hc (List.getElem?_eq_none_iff.1 hb)⟩
    · rcases Nat.eq_zero_or_pos (s.port p).rxreq with hr | hr
      · exact .inl ⟨_, _, .finish _ p _ (.inr (.inl ⟨rfl, rfl, hc, hr⟩))⟩
      · exact .inl ⟨_, _, .restart p hc hr⟩
  | evTxdataNack p => exact .inl ⟨_, _, .finish _ p _ (.inr (.inr (.inl ⟨rfl, rfl⟩)))⟩
  | evAddrNackWrite p => exact .inl ⟨_, _, .finish _ p _ (.inr (.inr (.inr (.inl ⟨rfl, rfl⟩))))⟩
  | evAddrNackRead p => exact .inl ⟨_, _, .finish _ p _ (.inr (.inr (.inr (.inr ⟨rfl, rfl⟩))))⟩
  | evSlarAck p =>
    rcases Nat.lt_or_ge ((s.port p).rxcur + 1) (s.port p).rxreq with hc | hc
    · exact .inl ⟨_, _, .slarMore p hc⟩
    · exact .inl ⟨_, _, .slarLast p hc⟩
  | evRxdataAck p =>
    rcases Nat.lt_or_ge (s.port p).rxcur (s.port p).rxbuf.length with hb | hb
    · rcases Nat.lt_or_ge ((s.port p).rxcur + 2) (s.port p).rxreq with hc | hc
      · exact .inl ⟨_, _, .storeMore p hb hc⟩
      · exact .inl ⟨_, _, .storeLast p hb hc⟩
    · exact .inr ⟨_, _, _, .store _ p (.inl rfl) hb⟩
  | evRxdataNack p =>
    rcases Nat.lt_or_ge (s.port p).rxcur (s.port p).rxbuf.length with hb | hb
    · exact .inl ⟨_, _, .storeEnd p hb⟩
    · exact .inr ⟨_, _, _, .store _ p (.inr rfl) hb⟩
  | evArbLost p =>
    cases hset : s.params.arbLostSetsState with
    | false => exact .inl ⟨_, _, .clear _ p (.inl ⟨rfl, hset⟩)⟩
    | true => exact .inl ⟨_, _, .lost p hset⟩
  | evUnrecognised p b => exact .inl ⟨_, _, .clear _ p (.inr ⟨b, rfl⟩)⟩
  | _ => cases hi

/-- The three outcomes of an event. -/
inductive EventOutcome (i : Instr) (s : State) : Prop where
  | answers (y : Port) (es : List TraceEntry) (t : State) (port : i.port.index < s.params.nports)
      (effect : EventEffect s.params (s.port i.port) i y es) (outcome : exec i s = .next t) (step : PortStep s t i.port y es)
  | overruns (which : Buffer) (n : Nat) (t : State) (port : i.port.index < s.params.nports)
      (access : EventOverrun s i which n t) (outcome : exec i s = .fault (.bufferOverrun i.port which n t))
  | refused (port : s.params.nports ≤ i.port.index) (outcome : exec i s = .refused (.noSuchPort i.port))

theorem event_outcome (s : State) (hi : i.isEvent = true) : EventOutcome i s := by
  rcases Nat.lt_or_ge i.port.index s.params.nports with hp | hp
  · rcases eventEffect_or_overrun s hi with ⟨y, es, heffect⟩ | ⟨which, n, t, haccess⟩
    · obtain ⟨t, hnext, hstep⟩ := answersPort_of_eventEffect hp hi heffect
      exact .answers y es t hp heffect hnext hstep
    · exact .overruns which n t hp haccess (exec_fault_of_overrun hp haccess)
  · exact .refused hp (exec_noSuchPort hp)

/-- When an event faults, and with what. -/
theorem event_fault_iff (hi : i.isEvent = true) :
    exec i s = .fault f ↔
      i.port.index < s.params.nports ∧ ∃ which n t, EventOverrun s i which n t ∧ f = .bufferOverrun i.port which n t := by
  constructor
  · intro hexec
    cases event_outcome s hi with
    | answers _ _ _ _ _ outcome _ => cases hexec.symm.trans outcome
    | overruns which n t hp haccess outcome =>
      cases hexec.symm.trans outcome
      exact ⟨hp, which, n, t, haccess, rfl⟩
    | refused _ outcome => cases hexec.symm.trans outcome
  · rintro ⟨hp, which, n, t, haccess, rfl⟩
    exact exec_fault_of_overrun hp haccess

theorem portStep_log (p : PortId) (e : TraceEntry) (he : ∀ q h, e ≠ .cb q h) (s : State) : PortStep s (s.log e) p (s.port p) [e] := by
  have hbody : bodyAfter [e] s.body = s.body := bodyAfter_of_no_cb (fun q h hmem => he q h (List.mem_singleton.1 hmem).symm) _
  exact portStep_intro (log_port ..) rfl hbody.symm rfl rfl rfl (fun _ _ => log_port ..) rfl rfl rfl rfl rfl rfl

/-- What an event has done when it overruns (R82, R91, R92): a cursor reset, or the data register read; no register written. -/
theorem eventOverrun_portStep {which : Buffer} {n : Nat} (h : EventOverrun s i which n t) :
    ∃ y es, PortStep s t i.port y es := by
  cases h with
  | start p _ | rstart p _ => exact ⟨_, _, portStep_modPort p _ s⟩
  | send i p hi => rcases hi with rfl | rfl <;> exact ⟨_, _, portStep_refl p s⟩
  | store i p hi => rcases hi with rfl | rfl <;> exact ⟨_, _, portStep_log p _ (fun _ _ => by nofun) s⟩

end Sys2Proof.Machine
end

section
/-! The events that access a buffer (R82, R91, R92) and the overruns of all events (R45). -/

namespace Sys2Proof.Machine

/-- Settles O2: the form of R82, and the overrun of its read at `txlen = CAP`. -/
theorem evRstartSendsReadAddress : Obligations.EvRstartSendsReadAddress := by
  unfold Obligations.EvRstartSendsReadAddress
  intro p s hp
  constructor
  · intro b hb
    exact answersPort_of_eventEffect hp rfl (.rstart p b hb)
  · intro hlen hfull
    have hfault := exec_fault_of_overrun (i := .evRstart p) hp (.rstart p (hlen.trans hfull.symm).le)
    rw [hfull] at hfault
    exact ⟨_, hfault, portStep_modPort p (fun x => { x with rxcur := 0 }) s⟩

/-- A byte received with the buffer full (R45): the data register has been read. -/
theorem overruns_of_full {i : Instr} {p : PortId} {s : State} (hi : i = .evRxdataAck p ∨ i = .evRxdataNack p)
    (hp : p.index < s.params.nports) (hlen : (s.port p).rxbuf.length = s.params.cap) (hfull : (s.port p).rxcur = s.params.cap) :
    Overruns (exec i s) s p .rx s.params.cap (s.port p) [.regRead p .dat (s.port p).dat] := by
  have hport : i.port = p := by rcases hi with rfl | rfl <;> rfl
  have hfault := exec_fault_of_overrun (hport.symm ▸ hp) (.store i p hi (hlen.trans hfull.symm).le)
  rw [hfull, hport] at hfault
  exact ⟨_, hfault, portStep_log p _ (fun _ _ => by nofun) s⟩

/-- Settles O7: the cursor after the byte decides the acknowledge; a full buffer overruns. -/
theorem evRxdataAckStoresAndDecides : Obligations.EvRxdataAckStoresAndDecides := by
  unfold Obligations.EvRxdataAckStoresAndDecides
  intro p s hp
  refine ⟨fun hroom hmore => ?_, fun hroom hlast => ?_, fun hlen hfull => ?_⟩
  · exact answersPort_of_eventEffect hp rfl (.storeMore p hroom hmore)
  · exact answersPort_of_eventEffect hp rfl (.storeLast p hroom hlast)
  · exact overruns_of_full (.inl rfl) hp hlen hfull

/-- Settles O8: the form of R92, whatever `rxreq` is; a full buffer overruns. -/
theorem evRxdataNackStoresAndEnds : Obligations.EvRxdataNackStoresAndEnds := by
  unfold Obligations.EvRxdataNackStoresAndEnds
  intro p s hp
  constructor
  · intro hroom
    exact answersPort_of_eventEffect hp rfl (.storeEnd p hroom)
  · intro hlen hfull
    exact overruns_of_full (.inr rfl) hp hlen hfull

/-- Settles O11: the overruns are those of `EventOverrun`; that of EV_START needs an empty buffer, and CAP is at least two. -/
theorem eventFaultsExactlyOnOverrun : Obligations.EventFaultsExactlyOnOverrun := by
  unfold Obligations.EventFaultsExactlyOnOverrun
  intro i s f hi hp hwf htx hrx
  rw [event_fault_iff hi]
  constructor
  · rintro ⟨-, which, n, t, haccess, rfl⟩
    cases haccess with
    | start p h =>
      have hcap := two_le_cap_of_wf hwf
      have hempty : s.params.cap ≤ 0 := htx ▸ h
      omega
    | rstart p h => exact .inl ⟨rfl, htx ▸ h, rfl⟩
    | send i p hi hc h =>
      rcases hi with rfl | rfl
      · exact .inr (.inl ⟨.inl rfl, hc, htx ▸ h, rfl⟩)
      · exact .inr (.inl ⟨.inr rfl, hc, htx ▸ h, rfl⟩)
    | store i p hi h =>
      rcases hi with rfl | rfl
      · exact .inr (.inr ⟨.inl rfl, hrx ▸ h, rfl⟩)
      · exact .inr (.inr ⟨.inr rfl, hrx ▸ h, rfl⟩)
  · rintro (⟨hrow, h, rfl⟩ | ⟨hrow, hc, h, rfl⟩ | ⟨hrow, h, rfl⟩)
    · have haccess := EventOverrun.rstart i.port (htx.trans_le h)
      rw [← hrow] at haccess
      exact ⟨hp, _, _, _, haccess, rfl⟩
    · exact ⟨hp, _, _, _, .send i i.port hrow hc (htx.trans_le h), rfl⟩
    · exact ⟨hp, _, _, _, .store i i.port hrow (hrx.trans_le h), rfl⟩

end Sys2Proof.Machine
end

section
/-! What an event depends on and what it touches (R12, R80, R136): its own port, and of that never the state register. -/

namespace Sys2Proof.Machine

variable {s s' t t' : State} {p : PortId} {i : Instr}

/-! ### An event and its port -/

theorem eventEffect_entries_port {P : Params} {x y : Port} {es : List TraceEntry} (h : EventEffect P x i y es) :
    ∀ e ∈ es, e.port = i.port := by
  have callback (p : PortId) : ∀ e ∈ cbEntries p x, e.port = p := by
    unfold cbEntries
    split <;> simp [TraceEntry.port]
  cases h with
  | send _ _ _ hi => rcases hi with rfl | rfl <;> simp [TraceEntry.port, Instr.port]
  | finish _ p _ hi =>
    have hport : i.port = p := by rcases hi with ⟨rfl, -⟩ | ⟨rfl, -⟩ | ⟨rfl, -⟩ | ⟨rfl, -⟩ | ⟨rfl, -⟩ <;> rfl
    simpa [List.forall_mem_append, TraceEntry.port, hport] using callback p
  | clear _ _ hi => rcases hi with ⟨rfl, -⟩ | ⟨b, rfl⟩ <;> simp [TraceEntry.port, Instr.port]
  | storeEnd p | lost p => simpa [List.forall_mem_append, TraceEntry.port, Instr.port] using callback p
  | _ => simp [TraceEntry.port, Instr.port]

/-- Settles O48: the frame of `PortStep`, and the port of each entry of a form. -/
theorem eventTouchesOnlyItsPort : Obligations.EventTouchesOnlyItsPort := by
  unfold Obligations.EventTouchesOnlyItsPort
  intro i s t hi hexec
  obtain ⟨-, y, es, heffect, -, htrace, hbody, hcu, htmo, hresp, hothers, hrest⟩ := event_next hi hexec
  exact ⟨hothers, hrest, hcu, htmo, hresp, es, htrace, hbody, eventEffect_entries_port heffect⟩

/-- The overrun of an event is the same in every state with the same port. -/
theorem eventOverrun_of_port_eq {which : Buffer} {n : Nat} (h : EventOverrun s i which n t)
    (hport : s.port i.port = s'.port i.port) :
    ∃ t', EventOverrun s' i which n t' ∧ t.port i.port = t'.port i.port ∧
      ∃ l, t.trace = s.trace ++ l ∧ t'.trace = s'.trace ++ l := by
  cases h with
  | start p h =>
    have hport : s.port p = s'.port p := hport
    exact ⟨_, .start p (hport ▸ h), by simp [Instr.port, hport], [], by simp⟩
  | rstart p h =>
    have hport : s.port p = s'.port p := hport
    have haccess := EventOverrun.rstart (s := s') p (hport ▸ h)
    rw [← hport] at haccess
    exact ⟨_, haccess, by simp [Instr.port, hport], [], by simp⟩
  | send i p hi hc h =>
    have hp : i.port = p := by rcases hi with rfl | rfl <;> rfl
    rw [hp] at hport ⊢
    have haccess := EventOverrun.send (s := s') i p hi (hport ▸ hc) (hport ▸ h)
    rw [← hport] at haccess
    exact ⟨_, haccess, hport, [], by simp⟩
  | store i p hi h =>
    have hp : i.port = p := by rcases hi with rfl | rfl <;> rfl
    rw [hp] at hport ⊢
    have haccess := EventOverrun.store (s := s') i p hi (hport ▸ h)
    rw [← hport] at haccess
    exact ⟨_, haccess, by simpa using hport, _, rfl, rfl⟩

/-- Settles O49: which form applies, or which access overruns, is decided by the parameters and the port. -/
theorem eventDependsOnlyOnItsPort : Obligations.EventDependsOnlyOnItsPort := by
  unfold Obligations.EventDependsOnlyOnItsPort
  intro i s s' hi hparams hport
  cases event_outcome s hi with
  | answers y es t hp heffect outcome hstep =>
    rw [hparams, hport] at heffect
    obtain ⟨t', outcome', hstep'⟩ := answersPort_of_eventEffect (hparams ▸ hp) hi heffect
    obtain ⟨hy, htrace, -⟩ := hstep
    obtain ⟨hy', htrace', -⟩ := hstep'
    rw [outcome, outcome']
    exact ⟨hy.trans hy'.symm, es, htrace, htrace'⟩
  | overruns which n t hp haccess outcome =>
    obtain ⟨t', haccess', hsame⟩ := eventOverrun_of_port_eq haccess hport
    rw [outcome, exec_fault_of_overrun (hparams ▸ hp) haccess']
    exact ⟨which, n, t, t', rfl, rfl, hsame⟩
  | refused hp outcome =>
    rw [outcome, exec_noSuchPort (hparams ▸ hp)]

/-! ### An event and the state register -/

/-- A state is its fields. -/
theorem state_ext (hports : ∀ q, s.port q = t.port q) (hparams : s.params = t.params) (hcu : s.cu = t.cu)
    (htmo : s.tmo = t.tmo) (hresp : s.resp = t.resp) (hmem : s.hostMem = t.hostMem) (htrace : s.trace = t.trace)
    (hbody : s.body = t.body) (hrequests : s.requests = t.requests) (hagenda : s.agenda = t.agenda)
    (hdraws : s.draws = t.draws) (hinject : s.inject = t.inject) : s = t := by
  have h0 : s.port0 = t.port0 := hports .p0
  have h1 : s.port1 = t.port1 := hports .p1
  have h2 : s.port2 = t.port2 := hports .p2
  cases s
  cases t
  simp_all only

/-- A `PortStep` gives its state whole. -/
theorem portStep_unique {y : Port} {es : List TraceEntry} (h : PortStep s t p y es) (h' : PortStep s t' p y es) : t = t' := by
  obtain ⟨hy, htrace, hbody, hcu, htmo, hresp, hothers, hparams, hmem, -, hrequests, hagenda, hdraws, hinject⟩ := h
  obtain ⟨hy', htrace', hbody', hcu', htmo', hresp', hothers', hparams', hmem', -, hrequests', hagenda', hdraws', hinject'⟩ := h'
  refine state_ext (fun q => ?_) (hparams.trans hparams'.symm) (hcu.trans hcu'.symm) (htmo.trans htmo'.symm)
    (hresp.trans hresp'.symm) (hmem.trans hmem'.symm) (htrace.trans htrace'.symm) (hbody.trans hbody'.symm)
    (hrequests.trans hrequests'.symm) (hagenda.trans hagenda'.symm) (hdraws.trans hdraws'.symm) (hinject.trans hinject'.symm)
  by_cases hq : q = p
  · rw [hq, hy, hy']
  · rw [hothers q hq, hothers' q hq]

/-- Changing the state register first is a step of that port too. -/
theorem portStep_putState (p : PortId) (S : TxState) (s : State) : PortStep s (putState p S s) p { s.port p with state := S } [] :=
  portStep_modPort p (fun x => { x with state := S }) s

/-- An event's form with another state put before: the same but for the state register, which holds what the event wrote or what was put
there. -/
theorem eventEffect_putState {P : Params} {x y : Port} {es : List TraceEntry} (h : EventEffect P x i y es) (S : TxState) :
    ∃ y', EventEffect P { x with state := S } i y' es ∧ (y' = y ∨ (y' = { y with state := S } ∧ y.state = x.state)) := by
  cases h with
  | start p b hb => exact ⟨_, .start p b hb, .inl rfl⟩
  | rstart p b hb => exact ⟨_, .rstart p b hb, .inl rfl⟩
  | send i p b hi hc hb => exact ⟨_, .send i p b hi hc hb, .inr ⟨rfl, rfl⟩⟩
  | restart p hc hr => exact ⟨_, .restart p hc hr, .inr ⟨rfl, rfl⟩⟩
  | finish i p T hi => exact ⟨_, .finish i p T hi, .inl rfl⟩
  | slarMore p hc => exact ⟨_, .slarMore p hc, .inr ⟨rfl, rfl⟩⟩
  | slarLast p hc => exact ⟨_, .slarLast p hc, .inr ⟨rfl, rfl⟩⟩
  | storeMore p hb hc => exact ⟨_, .storeMore p hb hc, .inr ⟨rfl, rfl⟩⟩
  | storeLast p hb hc => exact ⟨_, .storeLast p hb hc, .inr ⟨rfl, rfl⟩⟩
  | storeEnd p hb => exact ⟨_, .storeEnd p hb, .inl rfl⟩
  | clear i p hi => exact ⟨_, .clear i p hi, .inr ⟨rfl, rfl⟩⟩
  | lost p hset => exact ⟨_, .lost p hset, .inl rfl⟩

theorem putState_modPort_comm {f : Port → Port} {S : TxState} (hf : ∀ x : Port, f { x with state := S } = { f x with state := S }) :
    (putState p S s).modPort p f = putState p S (s.modPort p f) := by
  simp [putState, hf]

theorem putState_log_comm {S : TxState} {e : TraceEntry} : (putState p S s).log e = putState p S (s.log e) := by
  cases p <;> rfl

theorem eventOverrun_putState {which : Buffer} {n : Nat} (h : EventOverrun s i which n t) (S : TxState) :
    EventOverrun (putState i.port S s) i which n (putState i.port S t) := by
  cases h with
  | start p h =>
    have haccess := EventOverrun.start (s := putState p S s) p (by simpa using h)
    rwa [putState_modPort_comm fun _ => rfl] at haccess
  | rstart p h =>
    have haccess := EventOverrun.rstart (s := putState p S s) p (by simpa using h)
    rwa [putState_modPort_comm fun _ => rfl, putState_port_same] at haccess
  | send i p hi hc h =>
    have hp : i.port = p := by rcases hi with rfl | rfl <;> rfl
    have haccess := EventOverrun.send (s := putState p S s) i p hi (by simpa using hc) (by simpa using h)
    rw [putState_port_same] at haccess
    exact hp ▸ haccess
  | store i p hi h =>
    have hp : i.port = p := by rcases hi with rfl | rfl <;> rfl
    have haccess := EventOverrun.store (s := putState p S s) i p hi (by simpa using h)
    rw [putState_log_comm, putState_port_same] at haccess
    exact hp ▸ haccess

/-- Settles O50, by the outcome of the event: the form that applies, or the access that overruns, does not look at the state register. -/
theorem eventIgnoresTheStateRegister : Obligations.EventIgnoresTheStateRegister := by
  unfold Obligations.EventIgnoresTheStateRegister
  intro i S s hi
  have hparams : (putState i.port S s).params = s.params := putState_params ..
  cases event_outcome s hi with
  | answers y es t hp heffect outcome hstep =>
    obtain ⟨y', heffect', hy⟩ := eventEffect_putState heffect S
    rw [← hparams, ← putState_port_same s i.port S] at heffect'
    obtain ⟨t', outcome', hstep'⟩ := answersPort_of_eventEffect (hparams ▸ hp) hi heffect'
    have hstep' : PortStep s t' i.port y' es := portStep_trans (portStep_putState i.port S s) hstep'
    rw [outcome, outcome']
    rcases hy with rfl | ⟨rfl, hsame⟩
    · exact .inl (congrArg Host.Outcome.next (portStep_unique hstep' hstep))
    · have hput := portStep_trans hstep (portStep_putState i.port S t)
      rw [hstep.1, List.append_nil] at hput
      exact .inr ⟨congrArg Host.Outcome.next (portStep_unique hstep' hput), hstep.1 ▸ hsame⟩
  | overruns which n t hp haccess outcome =>
    rw [outcome]
    exact ⟨which, n, t, rfl, exec_fault_of_overrun (hparams ▸ hp) (eventOverrun_putState haccess S)⟩
  | refused hp outcome =>
    rw [outcome]
    exact exec_noSuchPort (hparams ▸ hp)

end Sys2Proof.Machine
end

section
/-! What the trace of an event shows: the callback at the end (R128), one clearing of SI (R80), no ACK for a single byte (R90). -/

namespace Sys2Proof.Machine

variable {s t : State} {p : PortId} {i : Instr} {P : Params} {x y : Port} {es : List TraceEntry}

/-! ### The callback -/

/-- The form of an event fires the callback exactly where the table of state writes names a terminal state. -/
theorem eventEffect_callback (hx : s.port i.port = x) (h : EventEffect s.params x i y es) :
    ∃ l, (∀ q k, .cb q k ∉ l) ∧
      (((∃ S, S.terminal = true ∧ writesState i s S) ∧ es = l ++ cbEntries i.port x ∧ y.state.terminal = true) ∨
        (¬(∃ S, S.terminal = true ∧ writesState i s S) ∧ es = l)) := by
  cases h with
  | start | rstart =>
    refine ⟨_, by simp, .inr ⟨?_, rfl⟩⟩
    rintro ⟨S, hS, rfl⟩
    cases hS
  | send i p b hi hc =>
    refine ⟨_, by simp, .inr ⟨?_, rfl⟩⟩
    subst hx
    rcases hi with rfl | rfl <;> rintro ⟨S, -, -, hle⟩
    · exact absurd hc hle.not_gt
    · exact absurd hc hle.1.not_gt
  | restart p hc hr =>
    refine ⟨_, by simp, .inr ⟨?_, rfl⟩⟩
    rintro ⟨S, -, -, -, hzero⟩
    subst hx
    exact hr.ne' hzero
  | slarMore | slarLast | storeMore | storeLast =>
    refine ⟨_, by simp, .inr ⟨?_, rfl⟩⟩
    rintro ⟨S, -, hwrites⟩
    exact hwrites
  | clear i p hi =>
    refine ⟨_, by simp, .inr ⟨?_, rfl⟩⟩
    rcases hi with ⟨rfl, hset⟩ | ⟨b, rfl⟩ <;> rintro ⟨S, -, hwrites⟩
    · exact Bool.false_ne_true (hset.symm.trans hwrites.2)
    · exact hwrites
  | finish i p S hi =>
    subst hx
    refine ⟨[.regWrite p .conset s.params.flag.stop, .regWrite p .conclr s.params.flag.si], by simp, .inl ?_⟩
    rcases hi with ⟨rfl, rfl, hc⟩ | ⟨rfl, rfl, hc⟩ | ⟨rfl, rfl⟩ | ⟨rfl, rfl⟩ | ⟨rfl, rfl⟩
    · exact ⟨⟨_, rfl, rfl, hc⟩, rfl, rfl⟩
    · exact ⟨⟨_, rfl, rfl, hc⟩, rfl, rfl⟩
    all_goals exact ⟨⟨_, rfl, rfl⟩, rfl, rfl⟩
  | storeEnd p =>
    refine ⟨[.regRead p .dat x.dat, .regWrite p .conset s.params.flag.stop, .regWrite p .conclr s.params.flag.si], by simp, .inl ?_⟩
    exact ⟨⟨_, rfl, rfl⟩, rfl, rfl⟩
  | lost p hset => exact ⟨[.regWrite p .conclr s.params.flag.si], by simp, .inl ⟨⟨_, rfl, rfl, hset⟩, rfl, rfl⟩⟩

/-- Settles O52: the forms of an event one by one; no other instruction adds a CB. -/
theorem callbackFiresExactlyAtTheEnd : Obligations.CallbackFiresExactlyAtTheEnd := by
  unfold Obligations.CallbackFiresExactlyAtTheEnd
  intro i s t hexec
  cases hi : i.isEvent with
  | true =>
    obtain ⟨-, y, es, heffect, hport, htrace, -⟩ := event_next hi hexec
    obtain ⟨l, hnone, ⟨hwrites, rfl, hterminal⟩ | ⟨hnot, rfl⟩⟩ := eventEffect_callback rfl heffect
    · exact ⟨l, hnone, .inl ⟨rfl, hwrites, by rw [htrace, List.append_assoc], hport ▸ hterminal⟩⟩
    · exact ⟨_, hnone, .inr ⟨fun h => hnot h.2, htrace⟩⟩
  | false =>
    obtain ⟨es, hstep⟩ := foreground_next hi hexec
    exact ⟨es, fun q k hmem => (hstep.entries _ hmem).2.1 q k rfl, .inr ⟨fun h => Bool.false_ne_true h.1, hstep.trace⟩⟩

/-! ### The register writes -/

@[simp] theorem regWrites_cbEntries (p : PortId) (x : Port) : regWrites (cbEntries p x) = [] := by
  unfold cbEntries
  split <;> rfl

@[simp] theorem regWrites_append (l m : List TraceEntry) : regWrites (l ++ m) = regWrites l ++ regWrites m :=
  List.filterMap_append ..

@[simp] theorem wordsTo_cbEntries (p q : PortId) (r : WriteReg) (x : Port) : wordsTo p r (cbEntries q x) = [] := by
  unfold cbEntries
  split <;> rfl

@[simp] theorem wordsTo_append (p : PortId) (r : WriteReg) (l m : List TraceEntry) :
    wordsTo p r (l ++ m) = wordsTo p r l ++ wordsTo p r m :=
  List.filterMap_append ..

/-- Clearing flags leaves none of them. -/
theorem and_not_and_self (a m : Word) : a &&& ~~~m &&& m = 0 := by
  rw [BitVec.and_assoc, BitVec.not_and_self]
  exact BitVec.and_zero

/-- In each form SI is cleared by the last register write and by no other; the word of R34 clears it with START. -/
theorem eventEffect_clearsSI (hP : FlagsSeparate P.flag) (h : EventEffect P x i y es) :
    y.ctl &&& P.flag.si = 0 ∧ ∃ v w, regWrites es = v ++ [(i.port, .conclr, w)] ∧ w &&& P.flag.si ≠ 0 ∧
      ∀ q u, (q, .conclr, u) ∈ v → u &&& P.flag.si = 0 := by
  have si : P.flag.si &&& P.flag.si ≠ 0 := by rw [BitVec.and_self]; exact hP.si_ne
  have startSI : (P.flag.start ||| P.flag.si) &&& P.flag.si = P.flag.si := by
    rw [BitVec.and_or_distrib_right, hP.start_si, BitVec.and_self]
    exact BitVec.zero_or
  have cleared (a : Word) : a &&& ~~~(P.flag.start ||| P.flag.si) &&& P.flag.si = 0 := by
    rw [BitVec.not_or, ← BitVec.and_assoc, and_not_and_self]
  have ack : P.flag.ack &&& P.flag.si = 0 := by rw [BitVec.and_comm, hP.si_ack]
  cases h with
  | start p b | rstart p b =>
    exact ⟨cleared _, [(p, .dat, zext32 b)], _, rfl, by rw [startSI]; exact hP.si_ne, by simp⟩
  | send i p b hi =>
    have hp : i.port = p := by rcases hi with rfl | rfl <;> rfl
    exact ⟨and_not_and_self .., [(p, .dat, zext32 b)], _, by rw [hp]; rfl, si, by simp⟩
  | restart p => exact ⟨and_not_and_self .., [(p, .conset, P.flag.start)], _, rfl, si, by simp⟩
  | finish i p S hi =>
    have hp : i.port = p := by rcases hi with ⟨rfl, -⟩ | ⟨rfl, -⟩ | ⟨rfl, -⟩ | ⟨rfl, -⟩ | ⟨rfl, -⟩ <;> rfl
    refine ⟨and_not_and_self .., [(p, .conset, P.flag.stop)], _, ?_, si, by simp⟩
    rw [regWrites_append, regWrites_cbEntries, hp]
    rfl
  | slarMore p | storeMore p => exact ⟨and_not_and_self .., [(p, .conset, P.flag.ack)], _, rfl, si, by simp⟩
  | slarLast p | storeLast p =>
    refine ⟨and_not_and_self .., [(p, .conclr, P.flag.ack)], _, rfl, si, fun q u hmem => ?_⟩
    cases List.mem_singleton.1 hmem
    exact ack
  | storeEnd p =>
    refine ⟨and_not_and_self .., [(p, .conset, P.flag.stop)], _, ?_, si, by simp⟩
    rw [regWrites_append, regWrites_cbEntries]
    rfl
  | clear i p hi =>
    have hp : i.port = p := by rcases hi with ⟨rfl, -⟩ | ⟨b, rfl⟩ <;> rfl
    exact ⟨and_not_and_self .., [], _, by rw [hp]; rfl, si, by simp⟩
  | lost p =>
    refine ⟨and_not_and_self .., [], _, ?_, si, by simp⟩
    rw [regWrites_append, regWrites_cbEntries]
    rfl

/-- Settles O54. -/
theorem eventClearsSIOnceAndLast : Obligations.EventClearsSIOnceAndLast := by
  unfold Obligations.EventClearsSIOnceAndLast
  intro i s t hwf hi hexec
  obtain ⟨-, y, es, heffect, hport, htrace, -⟩ := event_next hi hexec
  obtain ⟨hclear, v, w, hwrites, hlast, hbefore⟩ := eventEffect_clearsSI (flagsSeparate_of_wf hwf) heffect
  exact ⟨hport ▸ hclear, es, v, w, htrace, hwrites, hlast, hbefore⟩

/-- With one byte requested the forms that assert ACK do not apply, and no other word written to CONSET is ACK's. -/
theorem eventEffect_singleByte (hP : FlagsSeparate P.flag) (h : EventEffect P x i y es) (hone : x.rxreq = 1) :
    y.rxreq = 1 ∧ ∀ p, P.flag.ack ∉ wordsTo p .conset es := by
  have start : P.flag.ack ≠ P.flag.start := ne_of_and_mask hP.ack_ne BitVec.and_self hP.start_ack
  have stop : P.flag.ack ≠ P.flag.stop := ne_of_and_mask hP.ack_ne BitVec.and_self hP.stop_ack
  cases h with
  | slarMore _ hc | storeMore _ _ hc => omega
  | restart q =>
    refine ⟨hone, fun p => ?_⟩
    by_cases hq : q = p <;> simp [wordsTo, start, hq]
  | finish _ q | storeEnd q =>
    refine ⟨hone, fun p => ?_⟩
    rw [wordsTo_append, wordsTo_cbEntries, List.append_nil]
    by_cases hq : q = p <;> simp [wordsTo, stop, hq]
  | lost =>
    refine ⟨hone, fun p => ?_⟩
    rw [wordsTo_append, wordsTo_cbEntries]
    simp [wordsTo]
  | _ => exact ⟨hone, fun p => by simp [wordsTo]⟩

/-- Settles O55. -/
theorem singleByteReadNeverAcknowledges : Obligations.SingleByteReadNeverAcknowledges := by
  unfold Obligations.SingleByteReadNeverAcknowledges
  intro i s t hwf hi hone hexec
  obtain ⟨-, y, es, heffect, hport, htrace, -⟩ := event_next hi hexec
  obtain ⟨hkeeps, hnone⟩ := eventEffect_singleByte (flagsSeparate_of_wf hwf) heffect hone
  exact ⟨hport ▸ hkeeps, es, htrace, hnone _⟩

end Sys2Proof.Machine
end

section
/-! The data and status actions (R39 to R41) and those of INIT (R61, R100): register accesses, one or two. -/

namespace Sys2Proof.Machine

variable {s t : State} {p : PortId} {i : Instr}

/-- One register write is a step of its port. -/
theorem portStep_regWrite (p : PortId) (r : WriteReg) (w : Word) (s : State) :
    PortStep s (regWrite p r w s) p ((s.port p).writeReg r w) [.regWrite p r w] :=
  portStep_intro (regWrite_port_same ..) (regWrite_trace ..) (regWrite_body ..) (regWrite_cu ..) (regWrite_tmo ..)
    (regWrite_resp ..) (fun _ hq => regWrite_port_ne _ _ _ _ _ hq) (regWrite_params ..) (regWrite_hostMem ..)
    (regWrite_requests ..) (regWrite_agenda ..) (regWrite_draws ..) (regWrite_inject ..)

/-- One register read is a step of its port that leaves it as it is. -/
theorem portStep_regRead (p : PortId) (r : ReadReg) (s : State) :
    PortStep s (regRead p r s) p (s.port p) [.regRead p r ((s.port p).readReg r)] :=
  portStep_log p _ (fun _ _ => by nofun) s

theorem answersPort_of_exec {y : Port} {es : List TraceEntry} (hp : p.index < s.params.nports)
    (hi : exec i s = withPort p s (.next t)) (h : PortStep s t p y es) : AnswersPort (exec i s) s p y es :=
  ⟨t, hi.trans (withPort_pos _ _ hp), h⟩

/-- Settles O13: a write of DAT, and two reads. -/
theorem dataAndStatusActions : Obligations.DataAndStatusActions := by
  unfold Obligations.DataAndStatusActions
  intro p b s hp
  refine ⟨answersPort_of_exec_regWrite (r := .dat) hp rfl, ?_, answersPort_of_exec hp rfl (portStep_regRead p .dat s),
    answersPort_of_exec hp rfl (portStep_regRead p .stat s)⟩
  exact BitVec.toNat_setWidth_of_le (by decide)

/-- The two divisor writes of INIT (R100 lines 2 and 3). -/
theorem portStep_divisors (p : PortId) (s : State) :
    PortStep s (actDivisorLow p (actDivisorHigh p s)) p { s.port p with sclh := s.params.clkHigh, scll := s.params.clkLow }
      [.regWrite p .sclh s.params.clkHigh, .regWrite p .scll s.params.clkLow] := by
  have h := portStep_trans (portStep_regWrite p .sclh s.params.clkHigh s) (portStep_regWrite p .scll s.params.clkLow _)
  rw [regWrite_port_same] at h
  rw [actDivisorLow, actDivisorHigh, regWrite_params]
  exact h

/-- Settles O14: one write of CONCLR, one of CONSET, and the two divisor writes. -/
theorem initActionsWriteTheirWords : Obligations.InitActionsWriteTheirWords := by
  unfold Obligations.InitActionsWriteTheirWords
  intro p s hp
  exact ⟨answersPort_of_exec_regWrite (r := .conclr) hp rfl, answersPort_of_exec_regWrite (r := .conset) hp rfl,
    answersPort_of_exec hp rfl (portStep_divisors p s)⟩

end Sys2Proof.Machine
end

section
/-! The commands line by line (42_commands.md). A line does something to its port, `PortStep`, and then sets the command unit; the two
lemmas on what that answers serve every command. -/

namespace Sys2Proof.Machine

variable {r : Result} {s t : State} {p : PortId} {y : Port} {es : List TraceEntry}

/-- A line that touches command unit, tmo and response only. -/
theorem answers_of_unit {cu : CommandUnit} {n : Nat} {o : Option Response}
    (hr : r = .next { s with cu := cu, tmo := n, resp := o }) : Answers r s p (s.port p) [] cu n o :=
  ⟨_, hr, port_eq_of_fields rfl rfl rfl p, (List.append_nil _).symm, rfl, rfl, rfl, rfl,
    fun q _ => port_eq_of_fields rfl rfl rfl q, restSame_intro rfl rfl rfl rfl rfl rfl⟩

/-- A line that does something to its port and names the next one. -/
theorem answers_of_goto {c : Instr} {n : Nat} (h : PortStep s t p y es) (hr : r = .next (goto c n t)) :
    Answers r s p y es { s.cu with cur := some c, line := n } s.tmo s.resp := by
  obtain ⟨hport, htrace, hbody, hcu, htmo, hresp, hothers, hrest⟩ := h
  exact ⟨_, hr, (goto_port ..).trans hport, htrace, hbody, by rw [goto_cu, hcu], htmo, hresp,
    fun q hq => (goto_port ..).trans (hothers q hq), hrest⟩

/-- The last line of a command. -/
theorem answers_of_respond {o : Response} (h : PortStep s t p y es) (hr : r = .next (respond o t)) :
    Answers r s p y es .idle s.tmo (some o) := by
  obtain ⟨hport, htrace, hbody, -, htmo, -, hothers, hrest⟩ := h
  exact ⟨_, hr, (respond_port ..).trans hport, htrace, hbody, rfl, htmo, rfl,
    fun q hq => (respond_port ..).trans (hothers q hq), hrest⟩

theorem portStep_irqEnable (p : PortId) (s : State) :
    PortStep s (irqEnable p s) p { s.port p with irqEn := true } [.irqEn p] :=
  portStep_intro (irqEnable_port_same ..) (irqEnable_trace ..) (irqEnable_body ..) (irqEnable_cu ..) (irqEnable_tmo ..)
    (irqEnable_resp ..) (fun _ hq => irqEnable_port_ne _ _ _ hq) (irqEnable_params ..) (irqEnable_hostMem ..)
    (irqEnable_requests ..) (irqEnable_agenda ..) (irqEnable_draws ..) (irqEnable_inject ..)

/-! ### INIT -/

/-- Settles O15: the arm of each line, and what its operation does to the port. -/
theorem initPerformsItsLines : Obligations.InitPerformsItsLines := by
  unfold Obligations.InitPerformsItsLines
  intro p s hp
  refine ⟨fun hl => answers_of_goto (portStep_regWrite p .conclr s.params.flag.initClear s) ?first,
    fun hl => answers_of_goto (portStep_regWrite p .sclh s.params.clkHigh s) ?_,
    fun hl => answers_of_goto (portStep_regWrite p .scll s.params.clkLow s) ?_,
    fun hl hon => answers_of_goto (portStep_regWrite p .conset s.params.flag.enable s) ?enable,
    fun hl hoff => answers_of_goto (portStep_refl p s) ?skip,
    fun hl => answers_of_goto (portStep_irqEnable p s) ?_,
    fun hl => answers_of_respond (portStep_putState p .idle s) ?_⟩
  case first =>
    rw [exec, execInit, withPort_pos _ _ hp]
    split
    case h_6 => rfl
    all_goals omega
  case enable =>
    rw [exec, execInit, withPort_pos _ _ hp, hl, hon]
    rfl
  case skip =>
    rw [exec, execInit, withPort_pos _ _ hp, hl, hoff]
    rfl
  all_goals
    rw [exec, execInit, withPort_pos _ _ hp, hl]
    rfl

/-- One instruction again and again: the first time, and the rest. -/
theorem runAll_replicate_succ {i : Instr} {n : Nat} (h : exec i s = .next t) :
    runAll (List.replicate (n + 1) i) s = runAll (List.replicate n i) t :=
  runAll_cons_next h

/-- Settles O16: each of the six lines names the next, so the run is known; then field by field what it leaves. -/
theorem initPreparesThePort : Obligations.InitPreparesThePort := by
  unfold Obligations.InitPreparesThePort
  intro p s hp hline
  have hfirst : exec (.init p) s = .next (goto (.init p) 2 (actInitClear p s)) := by
    rw [exec, execInit, withPort_pos _ _ hp, hline]
    rfl
  have hrun := calc runAll (List.replicate 6 (.init p)) s
    _ = runAll (List.replicate 5 (.init p)) _ := runAll_replicate_succ hfirst
    _ = runAll (List.replicate 4 (.init p)) _ := runAll_replicate_succ (withPort_pos _ _ (by simpa [actInitClear] using hp))
    _ = runAll (List.replicate 3 (.init p)) _ :=
      runAll_replicate_succ (withPort_pos _ _ (by simpa [actInitClear, actDivisorHigh] using hp))
    _ = runAll (List.replicate 2 (.init p)) _ :=
      runAll_replicate_succ (withPort_pos _ _ (by simpa [actInitClear, actDivisorHigh, actDivisorLow] using hp))
    _ = runAll (List.replicate 1 (.init p)) _ := runAll_replicate_succ (withPort_pos _ _ (by
      split <;> simpa [actInitClear, actDivisorHigh, actDivisorLow, actInitEnable] using hp))
    _ = .next _ := runAll_replicate_succ (withPort_pos _ _ (by
      split <;> simpa [actInitClear, actDivisorHigh, actDivisorLow, actInitEnable] using hp))
  cases hset : s.params.initSetsEnable <;>
    refine answers_intro hrun ?_ ?_ ?_ ?_ ?_ ?_ ?_ ?_ ?_ ?_ ?_ ?_ ?_ <;>
      simp +contextual [hset, bodyAfter, actInitClear, actDivisorHigh, actDivisorLow, actInitEnable, FlagMasks.initClear]

end Sys2Proof.Machine
end

section
/-! WRITE line by line (R102). -/

namespace Sys2Proof.Machine

variable {r : Result} {s t : State} {p : PortId} {y : Port} {es : List TraceEntry} {c : Instr} {n : Nat}

theorem answers_of_goFor (h : PortStep s t p y es) (hr : r = .next (goFor c n t)) :
    Answers r s p y es { s.cu with cur := some c, line := n, idx := 0 } s.tmo s.resp := by
  obtain ⟨hport, htrace, hbody, hcu, htmo, hresp, hothers, hrest⟩ := h
  exact ⟨_, hr, (goFor_port ..).trans hport, htrace, hbody, by rw [goFor_cu, hcu], htmo, hresp,
    fun q hq => (goFor_port ..).trans (hothers q hq), hrest⟩

theorem answers_of_nextByte (h : PortStep s t p y es) (hr : r = .next (nextByte c n t)) :
    Answers r s p y es { s.cu with cur := some c, line := n, idx := s.cu.idx + 1 } s.tmo s.resp := by
  obtain ⟨hport, htrace, hbody, hcu, htmo, hresp, hothers, hrest⟩ := h
  exact ⟨_, hr, (nextByte_port ..).trans hport, htrace, hbody, by rw [nextByte_cu, hcu], htmo, hresp,
    fun q hq => (nextByte_port ..).trans (hothers q hq), hrest⟩

/-! ### WRITE -/

/-- Settles O19: the arm of each line behind the tests of port and array, and what its operation does to the port. -/
theorem writePerformsItsLines : Obligations.WritePerformsItsLines := by
  unfold Obligations.WritePerformsItsLines
  intro p a data size s hp hd
  refine ⟨fun hl hlong => answers_of_respond (portStep_refl p s) ?reject,
    fun hl hfits => answers_of_goto (portStep_refl p s) ?first,
    fun hl hroom => answers_of_goFor (portStep_modPort p (fun x => { x with txbuf := x.txbuf.set 0 (addrByte a false) }) s) ?address,
    fun hl hmore hroom => answers_of_nextByte (portStep_modPort p (fun x =>
      { x with txbuf := x.txbuf.set (1 + s.cu.idx) (s.hostRead (data.base + s.cu.idx)) }) s) ?byte,
    fun hl => answers_of_goto (portStep_modPort p (fun x => { x with txlen := size + 1 }) s) ?length,
    fun hl => answers_of_goto (portStep_modPort p (fun x => { x with rxreq := 0 }) s) ?_,
    fun hl => answers_of_unit ?_, fun hl => answers_of_respond (portStep_refl p s) ?_⟩
  case reject =>
    rw [exec, execWrite, withPort_pos _ _ hp, withArray_pos hd]
    split
    case h_7 => exact if_pos hlong
    all_goals omega
  case first =>
    rw [exec, execWrite, withPort_pos _ _ hp, withArray_pos hd]
    split
    case h_7 => exact if_neg (by omega)
    all_goals omega
  case address =>
    rw [exec, execWrite, withPort_pos _ _ hp, withArray_pos hd, hl]
    exact txPut_pos _ _ _ hroom
  case byte =>
    rw [exec, execWrite, withPort_pos _ _ hp, withArray_pos hd, hl]
    exact (if_pos hmore).trans (txPut_pos _ _ _ hroom)
  case length =>
    rw [exec, execWrite, withPort_pos _ _ hp, withArray_pos hd]
    rcases hl with ⟨hl, hdone⟩ | hl <;> rw [hl]
    · exact if_neg hdone.not_gt
    · rfl
  all_goals
    rw [exec, execWrite, withPort_pos _ _ hp, withArray_pos hd, hl]
    rfl

end Sys2Proof.Machine
end

section
/-! Runs of instructions on one port. An instruction of a port looks at a part of the state only, its `View`; what it answers, as a step
from view to view, composes without the states in between. -/

namespace Sys2Proof.Machine

/-- What an instruction of a port looks at. -/
structure View where
  params : Params
  port : Port
  cu : CommandUnit
  tmo : Nat
  resp : Option Response
  hostMem : List Host.Cell

def State.view (s : State) (p : PortId) : View :=
  { params := s.params, port := s.port p, cu := s.cu, tmo := s.tmo, resp := s.resp, hostMem := s.hostMem }

/-- Run where port `p` looks like `v`, the list `l` answers what looks like `w`, and adds `es` to the trace. -/
def Runs (p : PortId) (l : List Instr) (v w : View) (es : List TraceEntry) : Prop :=
  w.params = v.params ∧ w.hostMem = v.hostMem ∧
    ∀ s : State, s.view p = v → Answers (runAll l s) s p w.port es w.cu w.tmo w.resp

variable {p : PortId} {l m : List Instr} {v w x : View} {es fs : List TraceEntry} {i : Instr}

theorem runs_nil (p : PortId) (v : View) : Runs p [] v v [] := by
  refine ⟨rfl, rfl, fun s hs => ?_⟩
  subst hs
  exact answers_nil s p

theorem runs_one (hparams : w.params = v.params) (hmem : w.hostMem = v.hostMem)
    (h : ∀ s : State, s.view p = v → Answers (exec i s) s p w.port es w.cu w.tmo w.resp) : Runs p [i] v w es := by
  refine ⟨hparams, hmem, fun s hs => ?_⟩
  obtain ⟨t, hnext, hrest⟩ := h s hs
  exact ⟨t, runAll_cons_next hnext, hrest⟩

/-- A run of one instruction is what the instruction answers. -/
theorem Runs.answers {s : State} (h : Runs p [i] (s.view p) w es) : Answers (exec i s) s p w.port es w.cu w.tmo w.resp := by
  obtain ⟨-, -, hruns⟩ := h
  have hone : runAll [i] s = exec i s := by
    rw [runAll]
    cases exec i s <;> rfl
  exact hone ▸ hruns s rfl

theorem Runs.append (h : Runs p l v w es) (k : Runs p m w x fs) : Runs p (l ++ m) v x (es ++ fs) := by
  obtain ⟨hparams, hmem, hruns⟩ := h
  obtain ⟨kparams, kmem, kruns⟩ := k
  refine ⟨kparams.trans hparams, kmem.trans hmem, fun s hs => answers_append (hruns s hs) ?_⟩
  intro t hport hcu htmo hresp _ hrest
  subst hs
  obtain ⟨hP, hM, -⟩ := hrest
  refine kruns t ?_
  rw [State.view, hP, hport, hcu, htmo, hresp, hM]
  cases w
  cases hparams
  cases hmem
  rfl

/-- The same instruction again. -/
theorem Runs.replicate {a b : Nat} (h : Runs p (List.replicate a i) v w es) (k : Runs p (List.replicate b i) w x fs) :
    Runs p (List.replicate (a + b) i) v x (es ++ fs) :=
  List.replicate_append_replicate ▸ h.append k

/-- An event from a view in which one of its forms applies. -/
theorem runs_event {y : Port} (hp : i.port.index < v.params.nports) (hi : i.isEvent = true)
    (h : EventEffect v.params v.port i y es) : Runs i.port [i] v { v with port := y } es := by
  refine runs_one rfl rfl fun s hs => ?_
  subst hs
  exact answersPort_of_eventEffect hp hi h

end Sys2Proof.Machine
end

section
/-! READ line by line (R103), each line as a run of one instruction behind the tests of port, arrays and capacity. -/

namespace Sys2Proof.Machine

variable {p : PortId} {a nw nr : Nat} {txData out : HostArray} {v : View} {s : State}

/-- What READ asks before each of its lines (R66, R53, R103 line 0). -/
structure ReadLegal (P : Params) (p : PortId) (txData : HostArray) (nw : Nat) (out : HostArray) (nr : Nat) : Prop where
  port : p.index < P.nports
  source : nw ≤ txData.len
  target : nr ≤ out.len
  capacity : nw + 2 ≤ P.cap ∧ nr ≤ P.cap

theorem runs_read_first (h : ReadLegal v.params p txData nw out nr) (hl : v.cu.line = 0 ∨ 8 < v.cu.line) :
    Runs p [.read p a txData nw out nr] v
      { v with cu := { v.cu with cur := some (.read p a txData nw out nr), line := 1 } } [] := by
  refine runs_one rfl rfl fun s hs => ?_
  subst hs
  refine answers_of_goto (portStep_refl p s) ?_
  have hl : s.cu.line = 0 ∨ 8 < s.cu.line := hl
  rw [exec, execRead, withPort_pos s p h.port, withArray_pos h.source, withArray_pos h.target, withCapacity_pos s h.capacity]
  split
  case h_9 => rfl
  all_goals omega

theorem runs_read_address (h : ReadLegal v.params p txData nw out nr) (hl : v.cu.line = 1) (hroom : 0 < v.port.txbuf.length) :
    Runs p [.read p a txData nw out nr] v
      { v with
        port := { v.port with txbuf := v.port.txbuf.set 0 (addrByte a false) }
        cu := { v.cu with cur := some (.read p a txData nw out nr), line := 2, idx := 0 } } [] := by
  refine runs_one rfl rfl fun s hs => ?_
  subst hs
  refine answers_of_goFor (portStep_modPort p (fun x => { x with txbuf := x.txbuf.set 0 (addrByte a false) }) s) ?_
  have hl : s.cu.line = 1 := hl
  rw [exec, execRead, withPort_pos s p h.port, withArray_pos h.source, withArray_pos h.target, withCapacity_pos s h.capacity, hl]
  exact txPut_pos _ _ _ hroom

theorem runs_read_byte (h : ReadLegal v.params p txData nw out nr) (hl : v.cu.line = 2) (hmore : v.cu.idx < nw)
    (hroom : 1 + v.cu.idx < v.port.txbuf.length) :
    Runs p [.read p a txData nw out nr] v
      { v with
        port := { v.port with txbuf := v.port.txbuf.set (1 + v.cu.idx) (Memory.read v.hostMem (txData.base + v.cu.idx)) }
        cu := { v.cu with cur := some (.read p a txData nw out nr), line := 2, idx := v.cu.idx + 1 } } [] := by
  refine runs_one rfl rfl fun s hs => ?_
  subst hs
  refine answers_of_nextByte (portStep_modPort p (fun x =>
    { x with txbuf := x.txbuf.set (1 + s.cu.idx) (s.hostRead (txData.base + s.cu.idx)) }) s) ?_
  have hl : s.cu.line = 2 := hl
  rw [exec, execRead, withPort_pos s p h.port, withArray_pos h.source, withArray_pos h.target, withCapacity_pos s h.capacity, hl]
  exact (if_pos hmore).trans (txPut_pos _ _ _ hroom)

theorem runs_read_readAddress (h : ReadLegal v.params p txData nw out nr)
    (hl : (v.cu.line = 2 ∧ nw ≤ v.cu.idx) ∨ v.cu.line = 3) (hroom : nw + 1 < v.port.txbuf.length) :
    Runs p [.read p a txData nw out nr] v
      { v with
        port := { v.port with txbuf := v.port.txbuf.set (nw + 1) (addrByte a true) }
        cu := { v.cu with cur := some (.read p a txData nw out nr), line := 4 } } [] := by
  refine runs_one rfl rfl fun s hs => ?_
  subst hs
  refine answers_of_goto (portStep_modPort p (fun x => { x with txbuf := x.txbuf.set (nw + 1) (addrByte a true) }) s) ?_
  have hl : (s.cu.line = 2 ∧ nw ≤ s.cu.idx) ∨ s.cu.line = 3 := hl
  rw [exec, execRead, withPort_pos s p h.port, withArray_pos h.source, withArray_pos h.target, withCapacity_pos s h.capacity]
  rcases hl with ⟨hl, hdone⟩ | hl <;> rw [hl]
  · exact (if_neg hdone.not_gt).trans (txPut_pos _ _ _ hroom)
  · exact txPut_pos _ _ _ hroom

theorem runs_read_txlen (h : ReadLegal v.params p txData nw out nr) (hl : v.cu.line = 4) :
    Runs p [.read p a txData nw out nr] v
      { v with
        port := { v.port with txlen := nw + 1 }
        cu := { v.cu with cur := some (.read p a txData nw out nr), line := 5 } } [] := by
  refine runs_one rfl rfl fun s hs => ?_
  subst hs
  refine answers_of_goto (portStep_modPort p (fun x => { x with txlen := nw + 1 }) s) ?_
  have hl : s.cu.line = 4 := hl
  rw [exec, execRead, withPort_pos s p h.port, withArray_pos h.source, withArray_pos h.target, withCapacity_pos s h.capacity, hl]
  rfl

theorem runs_read_rxreq (h : ReadLegal v.params p txData nw out nr) (hl : v.cu.line = 5) :
    Runs p [.read p a txData nw out nr] v
      { v with
        port := { v.port with rxreq := nr }
        cu := { v.cu with cur := some (.read p a txData nw out nr), line := 6 } } [] := by
  refine runs_one rfl rfl fun s hs => ?_
  subst hs
  refine answers_of_goto (portStep_modPort p (fun x => { x with rxreq := nr }) s) ?_
  have hl : s.cu.line = 5 := hl
  rw [exec, execRead, withPort_pos s p h.port, withArray_pos h.source, withArray_pos h.target, withCapacity_pos s h.capacity, hl]
  rfl

theorem runs_read_call (h : ReadLegal v.params p txData nw out nr) (hl : v.cu.line = 6) :
    Runs p [.read p a txData nw out nr] v
      { v with
        cu := { v.cu with cur := some (.engine p), caller := some (.read p a txData nw out nr), line := 1 } } [] := by
  refine runs_one rfl rfl fun s hs => ?_
  subst hs
  refine answers_of_unit ?_
  have hl : s.cu.line = 6 := hl
  rw [exec, execRead, withPort_pos s p h.port, withArray_pos h.source, withArray_pos h.target, withCapacity_pos s h.capacity, hl]
  rfl

/-- The copy-out of one byte (R103 line 7), with host memory as it is after it. -/
theorem exec_read_copyOut {b : Byte} (h : ReadLegal s.params p txData nw out nr) (hl : s.cu.line = 7)
    (hmore : s.cu.idx < nr) (hb : (s.port p).rxbuf[s.cu.idx]? = some b) :
    exec (.read p a txData nw out nr) s =
      .next (nextByte (.read p a txData nw out nr) 7 (s.hostWrite (out.base + s.cu.idx) b)) := by
  rw [exec, execRead, withPort_pos s p h.port, withArray_pos h.source, withArray_pos h.target, withCapacity_pos s h.capacity, hl]
  exact (if_pos hmore).trans (rxFetch_some _ _ hb)

/-- The response of READ (R103 line 8). -/
theorem exec_read_done (h : ReadLegal s.params p txData nw out nr)
    (hl : (s.cu.line = 7 ∧ nr ≤ s.cu.idx) ∨ s.cu.line = 8) :
    exec (.read p a txData nw out nr) s = .next (respond (.done s.cu.result) s) := by
  rw [exec, execRead, withPort_pos s p h.port, withArray_pos h.source, withArray_pos h.target, withCapacity_pos s h.capacity]
  rcases hl with ⟨hl, hdone⟩ | hl <;> rw [hl]
  · exact if_neg hdone.not_gt
  · rfl

/-- Settles O21: the lines in their order. -/
theorem readPerformsItsLines : Obligations.ReadPerformsItsLines := by
  unfold Obligations.ReadPerformsItsLines
  intro p a txData nw out nr s hp hd ho hnw hnr htx hrx
  have h : ReadLegal (s.view p).params p txData nw out nr := ⟨hp, hd, ho, hnw, hnr⟩
  refine ⟨fun hl => (runs_read_first h hl).answers,
    fun hl => (runs_read_address h hl (show 0 < (s.port p).txbuf.length by omega)).answers,
    fun hl hmore => (runs_read_byte h hl hmore (show 1 + s.cu.idx < (s.port p).txbuf.length by omega)).answers,
    fun hl => (runs_read_readAddress h hl (show nw + 1 < (s.port p).txbuf.length by omega)).answers,
    fun hl => (runs_read_txlen h hl).answers, fun hl => (runs_read_rxreq h hl).answers,
    fun hl => (runs_read_call h hl).answers, fun hl hmore hmem => ?_,
    fun hl => answers_of_respond (portStep_refl p s) (exec_read_done h hl)⟩
  have hb : (s.port p).rxbuf[s.cu.idx]? = some (s.port p).rxbuf[s.cu.idx] := List.getElem?_eq_getElem (by omega)
  exact ⟨_, _, hb, exec_read_copyOut h hl hmore hb, fun x => hostRead_hostWrite hmem _ x _,
    port_eq_of_fields rfl rfl rfl, rfl, rfl, rfl, rfl, rfl, rfl, rfl, rfl, rfl, rfl⟩

end Sys2Proof.Machine
end

section
/-! ENGINE, START and STOP line by line (R104 to R106, R108, R109), and the operands that are refused (R53, R66, R103, R121). -/

namespace Sys2Proof.Machine

/-! ### ENGINE -/

/-- Settles O25: the three lines of R104. -/
theorem engineEntryStartsTheTransaction : Obligations.EngineEntryStartsTheTransaction := by
  unfold Obligations.EngineEntryStartsTheTransaction
  intro p s hp
  refine ⟨fun hl => answers_of_goto (portStep_putState p .busy s) ?first, fun hl => answers_of_unit ?_,
    fun hl => answers_of_goto (portStep_regWrite p .conset s.params.flag.start s) ?_⟩
  case first =>
    rw [exec, execEngine, withPort_pos _ _ hp]
    split
    case h_10 => rfl
    all_goals omega
  all_goals
    rw [exec, execEngine, withPort_pos _ _ hp, hl]
    rfl

/-- The states ENGINE waits on (R14). -/
theorem inflight_iff {S : TxState} : S.inflight = true ↔ S = .busy ∨ S = .started ∨ S = .restarted := by
  cases S <;> simp [TxState.inflight]

/-- Settles O26: the lines of R105; the two tests go both ways. -/
theorem engineWaitIterates : Obligations.EngineWaitIterates := by
  unfold Obligations.EngineWaitIterates
  intro p s hp
  refine ⟨fun hl => answers_of_unit ?_, fun hl hwait => answers_of_unit ?wait, fun hl h1 h2 h3 => answers_of_unit ?leave,
    fun hl => answers_of_unit ?_, fun hl hceil => answers_of_unit ?stop, fun hl hbelow => answers_of_unit ?again,
    fun hl => answers_of_goto (portStep_putState p .timeOut s) ?_⟩
  all_goals rw [exec, execEngine, withPort_pos _ _ hp, hl]
  case wait =>
    have hwait : s.cu.seen.inflight = true := inflight_iff.2 hwait
    exact congrArg (fun n => Host.Outcome.next (goto (.engine p) n s)) (if_pos hwait)
  case leave =>
    have hleave : ¬ s.cu.seen.inflight = true := by simp [inflight_iff, h1, h2, h3]
    exact congrArg (fun n => Host.Outcome.next (goto (.engine p) n s)) (if_neg hleave)
  case stop => exact congrArg (fun n => Host.Outcome.next (goto (.engine p) n s)) (if_pos hceil)
  case again => exact congrArg (fun n => Host.Outcome.next (goto (.engine p) n s)) (if_neg hbelow)
  all_goals rfl

/-- Settles O27: the two lines of R106, the second with and without a caller. -/
theorem engineReturnsTheFinalState : Obligations.EngineReturnsTheFinalState := by
  unfold Obligations.EngineReturnsTheFinalState
  intro p s hp
  refine ⟨fun hl => answers_of_unit ?read, fun c hl hcaller => answers_of_unit ?_,
    fun hl hcaller => answers_of_respond (portStep_refl p s) ?_⟩
  all_goals rw [exec, execEngine, withPort_pos _ _ hp, hl]
  case read => rfl
  all_goals
    refine congrArg Host.Outcome.next ?_
    rw [engineReturn, hcaller]

/-! ### START -/

/-- Settles O29: the lines of R108; the three tests go both ways. -/
theorem startPerformsItsLines : Obligations.StartPerformsItsLines := by
  unfold Obligations.StartPerformsItsLines
  intro p s hp
  refine ⟨fun hl => answers_of_goto (portStep_putState p .busy s) ?first, fun hl => answers_of_unit ?_,
    fun hl => answers_of_goto (portStep_regWrite p .conset s.params.flag.start s) ?_, fun hl => answers_of_unit ?_,
    fun hl hwait => answers_of_unit ?wait, fun hl hleave => answers_of_unit ?leave, fun hl hon => answers_of_unit ?bounded,
    fun hl hoff => answers_of_unit ?unbounded, fun hl => answers_of_unit ?_, fun hl hceil => answers_of_unit ?stop,
    fun hl hbelow => answers_of_unit ?again, fun hl => answers_of_goto (portStep_putState p .timeOut s) ?_,
    fun hl => answers_of_respond (portStep_refl p s) ?_⟩
  case first =>
    rw [exec, execStart, withPort_pos _ _ hp]
    split
    case h_10 => rfl
    all_goals omega
  all_goals rw [exec, execStart, withPort_pos _ _ hp, hl]
  case wait => exact congrArg (fun n => Host.Outcome.next (goto (.start p) n s)) (if_pos hwait)
  case leave => exact congrArg (fun n => Host.Outcome.next (goto (.start p) n s)) (if_neg hleave)
  case bounded => exact congrArg (fun n => Host.Outcome.next (goto (.start p) n s)) (if_pos hon)
  case unbounded =>
    exact congrArg (fun n => Host.Outcome.next (goto (.start p) n s)) (if_neg (Bool.eq_false_iff.1 hoff))
  case stop => exact congrArg (fun n => Host.Outcome.next (goto (.start p) n s)) (if_pos hceil)
  case again => exact congrArg (fun n => Host.Outcome.next (goto (.start p) n s)) (if_neg hbelow)
  all_goals rfl

/-! ### STOP -/

theorem stopPending_iff {p : PortId} {s : State} : stopPending p s = true ↔ (s.port p).ctl &&& s.params.flag.stop ≠ 0 := by
  simp [stopPending, Port.flagSet]

/-- Settles O30: the lines of R109. CONSET is read before the flag is tested, whichever way the test goes. -/
theorem stopPerformsItsLines : Obligations.StopPerformsItsLines := by
  unfold Obligations.StopPerformsItsLines
  intro p s hp
  refine ⟨fun hl => answers_of_unit ?first, fun hl => answers_of_goto (portStep_regWrite p .conset s.params.flag.stop s) ?_,
    fun hl hclear => answers_of_respond (portStep_regRead p .conset s) ?sent,
    fun hl hset => answers_of_goto (portStep_regRead p .conset s) ?pending, fun hl hon => answers_of_unit ?bounded,
    fun hl hoff => answers_of_unit ?unbounded, fun hl => answers_of_unit ?_,
    fun hl hceil => answers_of_respond (portStep_refl p s) ?stop, fun hl hbelow => answers_of_unit ?again⟩
  case first =>
    rw [exec, execStop, withPort_pos _ _ hp]
    split
    case h_6 => rfl
    all_goals omega
  all_goals rw [exec, execStop, withPort_pos _ _ hp, hl]
  case sent => exact congrArg Host.Outcome.next (if_neg fun h => stopPending_iff.1 h hclear)
  case pending => exact congrArg Host.Outcome.next (if_pos (stopPending_iff.2 hset))
  case bounded => exact congrArg (fun n => Host.Outcome.next (goto (.stop p) n s)) (if_pos hon)
  case unbounded =>
    exact congrArg (fun n => Host.Outcome.next (goto (.stop p) n s)) (if_neg (Bool.eq_false_iff.1 hoff))
  case stop => exact congrArg Host.Outcome.next (if_pos hceil)
  case again => exact congrArg Host.Outcome.next (if_neg hbelow)
  all_goals rfl

/-! ### What is refused -/

/-- Settles O24: the tests in their order: port, arrays, capacity. -/
theorem illegalOperandsAreRefused : Obligations.IllegalOperandsAreRefused := by
  unfold Obligations.IllegalOperandsAreRefused
  refine ⟨fun i s hp => exec_noSuchPort hp, fun p a data size s hp hshort => ?_, fun p a txData nw out nr s hp => ⟨?_, ?_⟩⟩
  · rw [exec, execWrite, withPort_pos _ _ hp]
    exact if_neg hshort.not_ge
  · intro hshort
    rw [exec, execRead, withPort_pos _ _ hp]
    by_cases hd : nw ≤ txData.len
    · rw [withArray_pos hd]
      exact if_neg (by omega)
    · exact if_neg hd
  · intro hd ho hbeyond
    rw [exec, execRead, withPort_pos _ _ hp, withArray_pos hd, withArray_pos ho]
    exact if_neg (by omega)

end Sys2Proof.Machine
end

section
/-! What the lines of WRITE and READ before ENGINE make of the transmit buffer (R63, R64), and the copy-out of READ (R103). -/

namespace Sys2Proof.Machine

/-! ### The transmit buffer as it is filled -/

/-- A buffer that held `old`, with the address byte and the first `k` bytes of a payload laid out (R63, R64). -/
def laidOut (address : Byte) (payload : Nat → Byte) (old : List Byte) (k : Nat) : List Byte :=
  address :: (List.range k).map payload ++ old.drop (k + 1)

section
variable {address : Byte} {payload : Nat → Byte} {old : List Byte} {k : Nat}

theorem set_zero_eq_laidOut (h : 0 < old.length) : old.set 0 address = laidOut address payload old 0 := by
  cases old with
  | nil => cases h
  | cons b l => rfl

theorem length_laidOut (h : k + 1 ≤ old.length) : (laidOut address payload old k).length = old.length := by
  simp only [laidOut, List.cons_append, List.length_cons, List.length_append, List.length_map, List.length_range,
    List.length_drop]
  omega

/-- The byte put behind those laid out. -/
theorem set_laidOut (h : k + 1 < old.length) (b : Byte) :
    (laidOut address payload old k).set (k + 1) b = address :: (List.range k).map payload ++ [b] ++ old.drop (k + 2) := by
  rw [laidOut, List.drop_eq_getElem_cons h, List.set_append_right _ _ (by simp), List.append_assoc]
  simp only [List.length_cons, List.length_map, List.length_range, Nat.sub_self, List.set_cons_zero]
  rfl

theorem laidOut_succ (h : k + 1 < old.length) :
    (laidOut address payload old k).set (1 + k) (payload k) = laidOut address payload old (k + 1) := by
  rw [Nat.add_comm 1 k, set_laidOut h, laidOut, List.range_succ, List.map_append]
  rfl

end

/-- The view in which the first `k` bytes of a payload are laid out and the `for` line `n` of `i` goes on. -/
def View.packed (v : View) (i : Instr) (n : Nat) (address : Byte) (payload : Nat → Byte) (k : Nat) : View :=
  { v with
    port := { v.port with txbuf := laidOut address payload v.port.txbuf k }
    cu := { v.cu with cur := some i, line := n, idx := k } }

/-- The bytes WRITE and READ take from the caller's array (R53). -/
def View.payload (v : View) (source : HostArray) (i : Nat) : Byte := Memory.read v.hostMem (source.base + i)

section
variable {v : View} {i : Instr} {n k : Nat} {address : Byte} {payload : Nat → Byte}

/-- The address byte put. -/
theorem packed_zero (h : 0 < v.port.txbuf.length) :
    v.packed i n address payload 0 =
      { v with
        port := { v.port with txbuf := v.port.txbuf.set 0 address }
        cu := { v.cu with cur := some i, line := n, idx := 0 } } := by
  rw [View.packed, set_zero_eq_laidOut h]

/-- One more byte put. -/
theorem packed_succ (h : k + 1 < v.port.txbuf.length) :
    v.packed i n address payload (k + 1) =
      { v.packed i n address payload k with
        port := { (v.packed i n address payload k).port with
          txbuf := (v.packed i n address payload k).port.txbuf.set (1 + k) (payload k) }
        cu := { (v.packed i n address payload k).cu with cur := some i, line := n, idx := k + 1 } } := by
  rw [View.packed, ← laidOut_succ h]
  rfl

theorem length_packed (h : k + 1 ≤ v.port.txbuf.length) :
    (v.packed i n address payload k).port.txbuf.length = v.port.txbuf.length :=
  length_laidOut h

end

/-- A run of the same instruction in which each round is known. -/
theorem runs_iterate {p : PortId} {i : Instr} {c n : Nat} {f : Nat → View} {e : Nat → List TraceEntry}
    (h : ∀ k < n, Runs p (List.replicate c i) (f k) (f (k + 1)) (e k)) :
    Runs p (List.replicate (c * n) i) (f 0) (f n) ((List.range n).flatMap e) := by
  induction n with
  | zero => exact runs_nil p _
  | succ n ih =>
    have hrun := (ih fun k hk => h k (by omega)).replicate (h n (by omega))
    rw [List.range_succ, List.flatMap_append, List.flatMap_singleton]
    exact hrun

/-- A run of the same instruction without a trace entry. -/
theorem runs_iterate_silent {p : PortId} {i : Instr} {c n : Nat} {f : Nat → View}
    (h : ∀ k < n, Runs p (List.replicate c i) (f k) (f (k + 1)) []) : Runs p (List.replicate (c * n) i) (f 0) (f n) [] := by
  have hrun := runs_iterate (e := fun _ => []) h
  rwa [List.flatMap_eq_nil_iff.2 fun _ _ => rfl] at hrun

/-! ### WRITE -/

section
variable {p : PortId} {a size : Nat} {data : HostArray} {v : View}

theorem runs_write_test (hp : p.index < v.params.nports) (hd : size ≤ data.len) (hl : v.cu.line < 2 ∨ 7 < v.cu.line)
    (hfits : size + 1 ≤ v.params.cap) :
    Runs p [.write p a data size] v { v with cu := { v.cu with cur := some (.write p a data size), line := 2 } } [] := by
  refine runs_one rfl rfl fun s hs => ?_
  subst hs
  obtain ⟨-, htest, -⟩ := writePerformsItsLines p a data size s hp hd
  exact htest hl hfits

theorem runs_write_address (hp : p.index < v.params.nports) (hd : size ≤ data.len) (hl : v.cu.line = 2)
    (hroom : 0 < v.port.txbuf.length) :
    Runs p [.write p a data size] v
      { v with
        port := { v.port with txbuf := v.port.txbuf.set 0 (addrByte a false) }
        cu := { v.cu with cur := some (.write p a data size), line := 3, idx := 0 } } [] := by
  refine runs_one rfl rfl fun s hs => ?_
  subst hs
  obtain ⟨-, -, haddress, -⟩ := writePerformsItsLines p a data size s hp hd
  exact haddress hl hroom

theorem runs_write_byte (hp : p.index < v.params.nports) (hd : size ≤ data.len) (hl : v.cu.line = 3) (hmore : v.cu.idx < size)
    (hroom : 1 + v.cu.idx < v.port.txbuf.length) :
    Runs p [.write p a data size] v
      { v with
        port := { v.port with txbuf := v.port.txbuf.set (1 + v.cu.idx) (v.payload data v.cu.idx) }
        cu := { v.cu with cur := some (.write p a data size), line := 3, idx := v.cu.idx + 1 } } [] := by
  refine runs_one rfl rfl fun s hs => ?_
  subst hs
  obtain ⟨-, -, -, hbyte, -⟩ := writePerformsItsLines p a data size s hp hd
  exact hbyte hl hmore hroom

theorem runs_write_txlen (hp : p.index < v.params.nports) (hd : size ≤ data.len) (hl : v.cu.line = 3) (hdone : size ≤ v.cu.idx) :
    Runs p [.write p a data size] v
      { v with
        port := { v.port with txlen := size + 1 }
        cu := { v.cu with cur := some (.write p a data size), line := 5 } } [] := by
  refine runs_one rfl rfl fun s hs => ?_
  subst hs
  obtain ⟨-, -, -, -, hlength, -⟩ := writePerformsItsLines p a data size s hp hd
  exact hlength (.inl ⟨hl, hdone⟩)

theorem runs_write_rxreq (hp : p.index < v.params.nports) (hd : size ≤ data.len) (hl : v.cu.line = 5) :
    Runs p [.write p a data size] v
      { v with
        port := { v.port with rxreq := 0 }
        cu := { v.cu with cur := some (.write p a data size), line := 6 } } [] := by
  refine runs_one rfl rfl fun s hs => ?_
  subst hs
  obtain ⟨-, -, -, -, -, hreq, -⟩ := writePerformsItsLines p a data size s hp hd
  exact hreq hl

theorem runs_write_call (hp : p.index < v.params.nports) (hd : size ≤ data.len) (hl : v.cu.line = 6) :
    Runs p [.write p a data size] v
      { v with cu := { v.cu with cur := some (.engine p), caller := some (.write p a data size), line := 1 } } [] := by
  refine runs_one rfl rfl fun s hs => ?_
  subst hs
  obtain ⟨-, -, -, -, -, -, hcall, -⟩ := writePerformsItsLines p a data size s hp hd
  exact hcall hl

/-- The capacity test, the address byte, the payload byte by byte, the two lengths, and the call of ENGINE (R63). -/
theorem runs_write_packing (hp : p.index < v.params.nports) (hd : size ≤ data.len) (hlen : v.port.txbuf.length = v.params.cap)
    (hfits : size + 1 ≤ v.params.cap) (hl : v.cu.line = 0) :
    Runs p (List.replicate (size + 5) (.write p a data size)) v
      { v with
        port := { v.port with
          txbuf := laidOut (addrByte a false) (v.payload data) v.port.txbuf size
          txlen := size + 1
          rxreq := 0 }
        cu := { v.cu with cur := some (.engine p), caller := some (.write p a data size), line := 1, idx := size } } [] := by
  have test := runs_write_test (a := a) hp hd (.inl (by omega)) hfits
  have address := test.replicate (a := 1) (b := 1) (runs_write_address hp hd rfl (by show 0 < v.port.txbuf.length; omega))
  have bytes : Runs p (List.replicate (1 * size) (.write p a data size))
      (v.packed (.write p a data size) 3 (addrByte a false) (v.payload data) 0)
      (v.packed (.write p a data size) 3 (addrByte a false) (v.payload data) size) [] := by
    refine runs_iterate_silent fun k hk => ?_
    rw [packed_succ (by omega)]
    refine runs_write_byte hp hd rfl hk ?_
    rw [length_packed (by omega)]
    show 1 + k < v.port.txbuf.length
    omega
  rw [packed_zero (by omega)] at bytes
  have txlen := (address.replicate bytes).replicate (b := 1) (runs_write_txlen hp hd rfl le_rfl)
  have rxreq := txlen.replicate (b := 1) (runs_write_rxreq hp hd rfl)
  have call := rxreq.replicate (b := 1) (runs_write_call hp hd rfl)
  rwa [show 1 + 1 + 1 * size + 1 + 1 + 1 = size + 5 by omega] at call

/-- Settles O20. -/
theorem writeBuildsTransmitBuffer : Obligations.WriteBuildsTransmitBuffer := by
  unfold Obligations.WriteBuildsTransmitBuffer
  intro p a data size s hp hd hlen hfits hl
  obtain ⟨-, -, hrun⟩ := runs_write_packing (a := a) (v := s.view p) hp hd hlen hfits hl
  exact hrun s rfl

end

/-! ### READ -/

section
variable {p : PortId} {a nw nr : Nat} {txData out : HostArray} {v : View}

/-- The first step, the address byte, the payload byte by byte, the read-address byte, the lengths, and the call of ENGINE (R64). -/
theorem runs_read_packing (h : ReadLegal v.params p txData nw out nr) (hlen : v.port.txbuf.length = v.params.cap)
    (hl : v.cu.line = 0) :
    Runs p (List.replicate (nw + 6) (.read p a txData nw out nr)) v
      { v with
        port := { v.port with
          txbuf := addrByte a false :: (List.range nw).map (v.payload txData) ++ [addrByte a true] ++ v.port.txbuf.drop (nw + 2)
          txlen := nw + 1
          rxreq := nr }
        cu := { v.cu with
          cur := some (.engine p)
          caller := some (.read p a txData nw out nr)
          line := 1
          idx := nw } } [] := by
  have hroom : nw + 2 ≤ v.port.txbuf.length := hlen ▸ h.capacity.1
  have first := runs_read_first (a := a) h (.inl hl)
  have address := first.replicate (a := 1) (b := 1) (runs_read_address h rfl (by show 0 < v.port.txbuf.length; omega))
  have bytes : Runs p (List.replicate (1 * nw) (.read p a txData nw out nr))
      (v.packed (.read p a txData nw out nr) 2 (addrByte a false) (v.payload txData) 0)
      (v.packed (.read p a txData nw out nr) 2 (addrByte a false) (v.payload txData) nw) [] := by
    refine runs_iterate_silent fun k hk => ?_
    rw [packed_succ (by omega)]
    refine runs_read_byte h rfl hk ?_
    rw [length_packed (by omega)]
    show 1 + k < v.port.txbuf.length
    omega
  rw [packed_zero (by omega)] at bytes
  have readAddress := (address.replicate bytes).replicate (b := 1) (runs_read_readAddress h (.inl ⟨rfl, le_rfl⟩) (by
    rw [length_packed (by omega)]
    omega))
  have txlen := readAddress.replicate (b := 1) (runs_read_txlen h rfl)
  have rxreq := txlen.replicate (b := 1) (runs_read_rxreq h rfl)
  have call := rxreq.replicate (b := 1) (runs_read_call h rfl)
  rw [show 1 + 1 + 1 * nw + 1 + 1 + 1 + 1 = nw + 6 by omega] at call
  rw [← set_laidOut (by omega)]
  exact call

/-- Settles O22. -/
theorem readBuildsTransmitBuffer : Obligations.ReadBuildsTransmitBuffer := by
  unfold Obligations.ReadBuildsTransmitBuffer
  intro p a txData nw out nr s hp hd ho hnw hnr hlen hl
  obtain ⟨-, -, hrun⟩ := runs_read_packing (a := a) (v := s.view p) ⟨hp, hd, ho, hnw, hnr⟩ hlen hl
  exact hrun s rfl

/-- One byte of the copy-out (R103 line 7): host memory changes at one address, of the rest only the index. -/
theorem read_copyOut_byte {s : State} {b : Byte} (h : ReadLegal s.params p txData nw out nr) (hl : s.cu.line = 7)
    (hmore : s.cu.idx < nr) (hb : (s.port p).rxbuf[s.cu.idx]? = some b) (hmem : Memory.wf s.hostMem) :
    ∃ u, exec (.read p a txData nw out nr) s = .next u ∧
      (∀ x, u.hostRead x = if x = out.base + s.cu.idx then b else s.hostRead x) ∧ Memory.wf u.hostMem ∧
      (∀ q, u.port q = s.port q) ∧ u.trace = s.trace ∧ u.params = s.params ∧ u.cu.line = 7 ∧ u.cu.idx = s.cu.idx + 1 ∧
      u.cu.result = s.cu.result :=
  ⟨_, exec_read_copyOut h hl hmore hb, fun x => hostRead_hostWrite hmem _ x _, hostWrite_wf hmem _ _,
    port_eq_of_fields rfl rfl rfl, rfl, rfl, rfl, rfl, rfl⟩

/-- The copy-out from index `s.cu.idx` on, and the response (R103 lines 7 and 8). -/
theorem read_copyOut {m : Nat} {s : State} (h : ReadLegal s.params p txData nw out nr)
    (hlen : (s.port p).rxbuf.length = s.params.cap) (hl : s.cu.line = 7) (hidx : s.cu.idx + m = nr) (hmem : Memory.wf s.hostMem) :
    ∃ t, runAll (List.replicate (m + 1) (.read p a txData nw out nr)) s = .next t ∧
      (∀ i, s.cu.idx ≤ i → i < nr → (s.port p).rxbuf[i]? = some (t.hostRead (out.base + i))) ∧
      (∀ x, x < out.base + s.cu.idx ∨ out.base + nr ≤ x → t.hostRead x = s.hostRead x) ∧
      t.resp = some (.done s.cu.result) ∧ t.cu = .idle ∧ (∀ q, t.port q = s.port q) ∧ t.trace = s.trace := by
  induction m generalizing s with
  | zero =>
    have hdone := exec_read_done (a := a) h (.inl ⟨hl, by omega⟩)
    exact ⟨_, runAll_replicate_succ hdone, fun i _ _ => by omega, fun _ _ => rfl, rfl, rfl,
      fun q => respond_port s q _, rfl⟩
  | succ m ih =>
    have hfits := h.capacity.2
    have hb : (s.port p).rxbuf[s.cu.idx]? = some (s.port p).rxbuf[s.cu.idx] := List.getElem?_eq_getElem (by omega)
    obtain ⟨u, hbyte, hwritten, humem, huport, hutrace, hparams, huline, huidx, huresult⟩ :=
      read_copyOut_byte (a := a) h hl (by omega) hb hmem
    obtain ⟨t, hrun, hcopied, hkept, hresp, hcu, hports, htrace⟩ :=
      ih (hparams ▸ h) (by rw [huport, hparams]; exact hlen) huline (by omega) humem
    rw [huidx] at hcopied hkept
    rw [huport] at hcopied
    refine ⟨t, (runAll_replicate_succ hbyte).trans hrun, fun i h1 h2 => ?_, fun x hx => ?_, huresult ▸ hresp, hcu,
      fun q => (hports q).trans (huport q), htrace.trans hutrace⟩
    · rcases Nat.eq_or_lt_of_le h1 with rfl | h1
      · rw [hkept _ (by omega), hwritten, if_pos rfl]
        exact hb
      · exact hcopied i h1 h2
    · rw [hkept x (by omega), hwritten, if_neg (by omega)]

/-- Settles O23: the copy-out from index 0. -/
theorem readCopiesOutWhateverTheOutcome : Obligations.ReadCopiesOutWhateverTheOutcome := by
  unfold Obligations.ReadCopiesOutWhateverTheOutcome
  intro p a txData nw out nr s hp hd ho hnw hnr hlen hl hidx hmem
  obtain ⟨t, hrun, hcopied, hkept, hrest⟩ :=
    read_copyOut (a := a) (m := nr) ⟨hp, hd, ho, hnw, hnr⟩ hlen hl (by omega) hmem
  rw [hidx] at hcopied hkept
  exact ⟨t, hrun, fun i hi => hcopied i (Nat.zero_le i) hi, hkept, hrest⟩

end

end Sys2Proof.Machine
end

section
/-! The waits of ENGINE and STOP as runs (R104 to R106, R109): one iteration, and how many there are when nothing else moves. -/

namespace Sys2Proof.Machine

variable {p : PortId} {v : View}

/-! ### ENGINE -/

/-- The entry of ENGINE (R104). -/
theorem runs_engine_entry (hp : p.index < v.params.nports) (hl : v.cu.line < 2) :
    Runs p (List.replicate 3 (.engine p)) v
      { v with
        port := { v.port with state := .busy, ctl := v.port.ctl ||| v.params.flag.start }
        cu := { v.cu with cur := some (.engine p), line := 4 }
        tmo := 0 } [.regWrite p .conset v.params.flag.start] := by
  have busy : Runs p [.engine p] v
      { v with port := { v.port with state := .busy }, cu := { v.cu with cur := some (.engine p), line := 2 } } [] := by
    refine runs_one rfl rfl fun s hs => ?_
    subst hs
    obtain ⟨hbusy, -⟩ := engineEntryStartsTheTransaction p s hp
    exact hbusy (.inl hl)
  have reset {w : View} (hw : p.index < w.params.nports) (hl : w.cu.line = 2) :
      Runs p [.engine p] w { w with cu := { w.cu with cur := some (.engine p), line := 3 }, tmo := 0 } [] := by
    refine runs_one rfl rfl fun s hs => ?_
    subst hs
    obtain ⟨-, hreset, -⟩ := engineEntryStartsTheTransaction p s hw
    exact hreset hl
  have start {w : View} (hw : p.index < w.params.nports) (hl : w.cu.line = 3) :
      Runs p [.engine p] w
        { w with
          port := { w.port with ctl := w.port.ctl ||| w.params.flag.start }
          cu := { w.cu with cur := some (.engine p), line := 4 } } [.regWrite p .conset w.params.flag.start] := by
    refine runs_one rfl rfl fun s hs => ?_
    subst hs
    obtain ⟨-, -, hstart⟩ := engineEntryStartsTheTransaction p s hw
    exact hstart hl
  exact (busy.append (reset hp rfl)).append (start hp rfl)

/-- The state is read once an iteration (R105 line 1). -/
theorem runs_engine_see (hp : p.index < v.params.nports) (hl : v.cu.line = 4) :
    Runs p [.engine p] v { v with cu := { v.cu with cur := some (.engine p), line := 5, seen := v.port.state } } [] := by
  refine runs_one rfl rfl fun s hs => ?_
  subst hs
  obtain ⟨hsee, -⟩ := engineWaitIterates p s hp
  exact hsee hl

/-- An iteration in a state to wait on: a tick, and the test of the ceiling. -/
theorem runs_engine_iteration (hp : p.index < v.params.nports) (hl : v.cu.line = 4) (hwait : v.port.state.inflight = true) :
    Runs p (List.replicate 4 (.engine p)) v
      { v with
        cu := { v.cu with
          cur := some (.engine p)
          line := if v.tmo + 1 = v.params.ceiling then 8 else 4
          seen := v.port.state }
        tmo := v.tmo + 1 } [] := by
  have wait {w : View} (hw : p.index < w.params.nports) (hl : w.cu.line = 5) (hwait : w.cu.seen.inflight = true) :
      Runs p [.engine p] w { w with cu := { w.cu with cur := some (.engine p), line := 6 } } [] := by
    refine runs_one rfl rfl fun s hs => ?_
    subst hs
    obtain ⟨-, hwaits, -⟩ := engineWaitIterates p s hw
    exact hwaits hl (inflight_iff.1 hwait)
  have tick {w : View} (hw : p.index < w.params.nports) (hl : w.cu.line = 6) :
      Runs p [.engine p] w { w with cu := { w.cu with cur := some (.engine p), line := 7 }, tmo := w.tmo + 1 } [] := by
    refine runs_one rfl rfl fun s hs => ?_
    subst hs
    obtain ⟨-, -, -, htick, -⟩ := engineWaitIterates p s hw
    exact htick hl
  have test {w : View} (hw : p.index < w.params.nports) (hl : w.cu.line = 7) :
      Runs p [.engine p] w
        { w with cu := { w.cu with cur := some (.engine p), line := if w.tmo = w.params.ceiling then 8 else 4 } } [] := by
    refine runs_one rfl rfl fun s hs => ?_
    subst hs
    obtain ⟨-, -, -, -, hstop, hagain, -⟩ := engineWaitIterates p s hw
    by_cases hceil : s.tmo = s.params.ceiling
    · have hline := hstop hl hceil
      simpa [State.view, hceil] using hline
    · have hline := hagain hl hceil
      simpa [State.view, hceil] using hline
  exact (((runs_engine_see hp hl).append (wait hp rfl hwait)).append (tick hp rfl)).append (test hp rfl)

/-- ENGINE reads the state again (R106 line 1). -/
theorem runs_engine_result (hp : p.index < v.params.nports) (hl : v.cu.line = 9) :
    Runs p [.engine p] v { v with cu := { v.cu with cur := some (.engine p), line := 10, result := v.port.state } } [] := by
  refine runs_one rfl rfl fun s hs => ?_
  subst hs
  obtain ⟨hresult, -⟩ := engineReturnsTheFinalState p s hp
  exact hresult hl

/-- The end of the last iteration: TIME_OUT is written, and read as the result. -/
theorem runs_engine_timeOut (hp : p.index < v.params.nports) (hl : v.cu.line = 8) :
    Runs p (List.replicate 2 (.engine p)) v
      { v with
        port := { v.port with state := .timeOut }
        cu := { v.cu with cur := some (.engine p), line := 10, result := .timeOut } } [] := by
  have timeOut : Runs p [.engine p] v
      { v with port := { v.port with state := .timeOut }, cu := { v.cu with cur := some (.engine p), line := 9 } } [] := by
    refine runs_one rfl rfl fun s hs => ?_
    subst hs
    obtain ⟨-, -, -, -, -, -, htimeOut⟩ := engineWaitIterates p s hp
    exact htimeOut hl
  exact timeOut.append (runs_engine_result hp rfl)

/-- The view after the entry and `k` iterations in which no event came. -/
def View.waiting (v : View) (p : PortId) (k : Nat) : View :=
  { v with
    port := { v.port with state := .busy, ctl := v.port.ctl ||| v.params.flag.start }
    cu := { v.cu with
      cur := some (.engine p)
      line := if k = v.params.ceiling then 8 else 4
      seen := if k = 0 then v.cu.seen else .busy }
    tmo := k }

theorem runs_engine_waiting {k : Nat} (hp : p.index < v.params.nports) (hl : v.cu.line < 2) (hceil : 1 ≤ v.params.ceiling)
    (hk : k ≤ v.params.ceiling) :
    Runs p (List.replicate (3 + 4 * k) (.engine p)) v (v.waiting p k) [.regWrite p .conset v.params.flag.start] := by
  have entry := runs_engine_entry hp hl
  have iterations : Runs p (List.replicate (4 * k) (.engine p)) (v.waiting p 0) (v.waiting p k) [] := by
    refine runs_iterate_silent fun j hj => ?_
    have hbelow : j ≠ v.params.ceiling := by omega
    exact runs_engine_iteration (v := v.waiting p j) hp (if_neg hbelow) rfl
  have hzero : (0 : Nat) ≠ v.params.ceiling := by omega
  simp only [View.waiting, hzero, if_true, if_false] at iterations
  exact entry.replicate iterations

/-- Settles O28: the entry and the iterations; after the last, TIME_OUT. -/
theorem engineTimesOutAfterExactlyTheCeiling : Obligations.EngineTimesOutAfterExactlyTheCeiling := by
  unfold Obligations.EngineTimesOutAfterExactlyTheCeiling
  intro p s hp hl hceil
  constructor
  · intro k hk
    obtain ⟨-, -, hrun⟩ := runs_engine_waiting (v := s.view p) hp hl hceil hk.le
    obtain ⟨t, hnext, hport, -, -, hcu, htmo, -⟩ := hrun s rfl
    exact ⟨t, hnext, by rw [hcu]; exact if_neg hk.ne, htmo, by rw [hport]; rfl⟩
  · have waited := runs_engine_waiting (v := s.view p) hp hl hceil le_rfl
    obtain ⟨-, -, hrun⟩ := waited.replicate (runs_engine_timeOut hp (if_pos rfl))
    obtain ⟨t, hnext, hport, htrace, hbody, hcu, htmo, -, hothers, hrest⟩ := hrun s rfl
    exact ⟨t, hnext, by rw [hcu], htmo, by rw [hcu], hport, htrace, hbody, hothers, hrest⟩

/-! ### STOP -/

/-- Setting flags sets them. -/
theorem or_and_self (a m : Word) : (a ||| m) &&& m = m := by
  ext i hi
  simp only [BitVec.getElem_and, BitVec.getElem_or]
  cases a[i] <;> simp

/-- The entry of STOP (R109). -/
theorem runs_stop_entry (hp : p.index < v.params.nports) (hl : v.cu.line = 0) :
    Runs p (List.replicate 2 (.stop p)) v
      { v with
        port := { v.port with ctl := v.port.ctl ||| v.params.flag.stop }
        cu := { v.cu with cur := some (.stop p), line := 3 }
        tmo := 0 } [.regWrite p .conset v.params.flag.stop] := by
  have reset : Runs p [.stop p] v { v with cu := { v.cu with cur := some (.stop p), line := 2 }, tmo := 0 } [] := by
    refine runs_one rfl rfl fun s hs => ?_
    subst hs
    obtain ⟨hreset, -⟩ := stopPerformsItsLines p s hp
    exact hreset (.inl (hl.trans_lt (by decide)))
  have stop {w : View} (hw : p.index < w.params.nports) (hl : w.cu.line = 2) :
      Runs p [.stop p] w
        { w with
          port := { w.port with ctl := w.port.ctl ||| w.params.flag.stop }
          cu := { w.cu with cur := some (.stop p), line := 3 } } [.regWrite p .conset w.params.flag.stop] := by
    refine runs_one rfl rfl fun s hs => ?_
    subst hs
    obtain ⟨-, hstop, -⟩ := stopPerformsItsLines p s hw
    exact hstop hl
  exact reset.append (stop hp rfl)

/-- An iteration of STOP's bounded wait, up to the test of the ceiling: CONSET read with the flag set, and a tick. -/
theorem runs_stop_iteration (hp : p.index < v.params.nports) (hl : v.cu.line = 3) (hset : v.port.ctl &&& v.params.flag.stop ≠ 0)
    (hon : v.params.manualWaitBounded = true) :
    Runs p (List.replicate 3 (.stop p)) v
      { v with cu := { v.cu with cur := some (.stop p), line := 6 }, tmo := v.tmo + 1 } [.regRead p .conset v.port.ctl] := by
  have read : Runs p [.stop p] v { v with cu := { v.cu with cur := some (.stop p), line := 4 } }
      [.regRead p .conset v.port.ctl] := by
    refine runs_one rfl rfl fun s hs => ?_
    subst hs
    obtain ⟨-, -, -, hpending, -⟩ := stopPerformsItsLines p s hp
    exact hpending hl hset
  have bounded {w : View} (hw : p.index < w.params.nports) (hl : w.cu.line = 4) (hon : w.params.manualWaitBounded = true) :
      Runs p [.stop p] w { w with cu := { w.cu with cur := some (.stop p), line := 5 } } [] := by
    refine runs_one rfl rfl fun s hs => ?_
    subst hs
    obtain ⟨-, -, -, -, hbounded, -⟩ := stopPerformsItsLines p s hw
    exact hbounded hl hon
  have tick {w : View} (hw : p.index < w.params.nports) (hl : w.cu.line = 5) :
      Runs p [.stop p] w { w with cu := { w.cu with cur := some (.stop p), line := 6 }, tmo := w.tmo + 1 } [] := by
    refine runs_one rfl rfl fun s hs => ?_
    subst hs
    obtain ⟨-, -, -, -, -, -, htick, -⟩ := stopPerformsItsLines p s hw
    exact htick hl
  exact (read.append (bounded hp rfl hon)).append (tick hp rfl)

theorem runs_stop_again (hp : p.index < v.params.nports) (hl : v.cu.line = 6) (hbelow : v.tmo ≠ v.params.ceiling) :
    Runs p [.stop p] v { v with cu := { v.cu with cur := some (.stop p), line := 3 } } [] := by
  refine runs_one rfl rfl fun s hs => ?_
  subst hs
  obtain ⟨-, -, -, -, -, -, -, -, hagain⟩ := stopPerformsItsLines p s hp
  exact hagain hl hbelow

theorem runs_stop_gaveUp (hp : p.index < v.params.nports) (hl : v.cu.line = 6) (hceil : v.tmo = v.params.ceiling) :
    Runs p [.stop p] v { v with cu := .idle, resp := some (.bit false) } [] := by
  refine runs_one rfl rfl fun s hs => ?_
  subst hs
  obtain ⟨-, -, -, -, -, -, -, hstop, -⟩ := stopPerformsItsLines p s hp
  exact hstop hl hceil

/-- The view after the entry of STOP and `k` iterations. -/
def View.stopping (v : View) (p : PortId) (k : Nat) : View :=
  { v with
    port := { v.port with ctl := v.port.ctl ||| v.params.flag.stop }
    cu := { v.cu with cur := some (.stop p), line := 3 }
    tmo := k }

/-- Settles O31: all but the last iteration go back to line 3, the last responds. -/
theorem stopGivesUpAfterExactlyTheCeiling : Obligations.StopGivesUpAfterExactlyTheCeiling := by
  unfold Obligations.StopGivesUpAfterExactlyTheCeiling
  intro p s hp hwf hon hl
  have hset : ((s.port p).ctl ||| s.params.flag.stop) &&& s.params.flag.stop ≠ 0 := by
    rw [or_and_self]
    exact (flagsSeparate_of_wf hwf).stop_ne
  obtain ⟨n, hn⟩ := Nat.exists_eq_add_of_le' (ceiling_pos_of_wf hwf)
  have entry := runs_stop_entry (v := s.view p) hp hl
  have iteration (k : Nat) := runs_stop_iteration (v := (s.view p).stopping p k) hp rfl hset hon
  have iterations : Runs p (List.replicate (4 * n) (.stop p)) ((s.view p).stopping p 0) ((s.view p).stopping p n)
      ((List.range n).flatMap fun _ => [.regRead p .conset ((s.port p).ctl ||| s.params.flag.stop)]) := by
    refine runs_iterate fun k hk => ?_
    exact (iteration k).replicate (b := 1) (runs_stop_again hp rfl (show k + 1 ≠ s.params.ceiling by omega))
  have last := (iteration n).replicate (b := 1) (runs_stop_gaveUp hp rfl (show n + 1 = s.params.ceiling by omega))
  obtain ⟨-, -, hrun⟩ := (entry.replicate iterations).replicate last
  have hanswers := hrun s rfl
  have hreads : (List.range n).flatMap (fun _ => [TraceEntry.regRead p .conset ((s.port p).ctl ||| s.params.flag.stop)]) =
      List.replicate n (.regRead p .conset ((s.port p).ctl ||| s.params.flag.stop)) := by
    rw [← List.map_eq_flatMap, List.map_const', List.length_range]
  rw [hreads, show 2 + 4 * n + (3 + 1) = 2 + 4 * (n + 1) by omega] at hanswers
  rw [hn, List.replicate_succ']
  exact hanswers

end Sys2Proof.Machine
end

section
/-! What one step does around the instruction it runs, the moves of the bus controller and of the host, a block that a callback holds, what
every step keeps, and the state after reset (60_exceptions.md sections 2, 4, 5 and 8, 10_state.md section 7). -/

namespace Sys2Proof.Machine

variable {s t : State} {p q : PortId} {l : List Turn}

/-! ### Which turn a step takes -/

theorem step_of_agenda {u : Turn} (hslot : s.inject = none) (ha : s.agenda = u :: l) :
    step s = takeTurn u { s with agenda := l } := by
  have hfilled : s.schedule = s := schedule_cons s ha
  rw [step_eq_takeTurn hslot (hfilled.symm ▸ ha), hfilled]

theorem step_of_inject {a : List Access} (hslot : s.inject = some (p, a)) :
    step s = runCode (.access p a) { s with inject := none } := by
  simp [step, nextTurn, hslot, runInjected]

theorem step_of_empty (hslot : s.inject = none) (ha : s.agenda = []) :
    step s = step { s with agenda := Config.oracle s.draws ++ [.command], draws := s.draws + 1 } := by
  have hfilled : (s.schedule).schedule = s.schedule := by
    obtain ⟨u, l, hl⟩ := List.exists_cons_of_ne_nil (schedule_agenda_ne s)
    exact schedule_cons _ hl
  rw [← schedule_nil s ha, step, step, nextTurn, nextTurn, hslot]
  have hslot' : s.schedule.inject = none := by rw [schedule_nil s ha, hslot]
  rw [hslot', hfilled]

/-- When an event step is enabled (R122). -/
theorem eventEnabled_iff :
    eventEnabled p s = true ↔ p.index < s.params.nports ∧ (s.port p).irqEn = true ∧ (s.port p).ctl &&& s.params.flag.si ≠ 0 := by
  simp only [eventEnabled, Port.flagSet, Bool.and_eq_true, decide_eq_true_eq, bne_iff_ne, and_assoc]

/-- An event turn of a free block whose event step is enabled reads STAT and runs the body its byte selects. -/
theorem takeTurn_event_enabled (hfree : s.body.hung = none) (hp : p.index < s.params.nports) (hirq : (s.port p).irqEn = true)
    (hsi : (s.port p).ctl &&& s.params.flag.si ≠ 0) :
    takeTurn (.event p) s = exec (classify s.params.sc p (lowByte (s.port p).stat)) (actReadStatus p s) := by
  show unlessHung s (eventTurn p s) = _
  rw [unlessHung_none s hfree, eventTurn, if_pos (eventEnabled_iff.2 ⟨hp, hirq, hsi⟩), handleInterrupt_eq]

/-- An event turn whose interrupt is not requested or not enabled does nothing, whether a callback holds the block or not. -/
theorem takeTurn_event_disabled (h : (s.port p).irqEn = false ∨ (s.port p).ctl &&& s.params.flag.si = 0) :
    takeTurn (.event p) s = .next s := by
  have hdisabled : ¬ eventEnabled p s = true := by
    rw [eventEnabled_iff]
    rintro ⟨-, hirq, hsi⟩
    exact h.elim (fun hunset => nomatch hunset.symm.trans hirq) hsi
  show unlessHung s (eventTurn p s) = _
  rw [eventTurn, if_neg hdisabled, unlessHung]
  split <;> rfl

theorem takeTurn_command_line {i : Instr} (hfree : s.body.hung = none) (hcur : s.cu.cur = some i) :
    takeTurn .command s = exec i s := by
  show unlessHung s (commandTurn s) = _
  rw [unlessHung_none s hfree]
  simp only [commandTurn, hcur]

theorem takeTurn_command_request {r : Request} {m : List Request} (hfree : s.body.hung = none) (hcur : s.cu.cur = none)
    (hreq : s.requests = r :: m) :
    takeTurn .command s = runCode (.command r) { s with requests := m, cu := .idle } := by
  show unlessHung s (commandTurn s) = _
  rw [unlessHung_none s hfree]
  simp only [commandTurn, hcur, hreq]

/-- An idle unit without a request does nothing, whether a callback holds the block or not. -/
theorem takeTurn_command_idle (hcur : s.cu.cur = none) (hreq : s.requests = []) : takeTurn .command s = .next s := by
  have hidle : commandTurn s = .next s := by simp only [commandTurn, hcur, hreq]
  show unlessHung s (commandTurn s) = _
  rw [hidle, unlessHung]
  split <;> rfl

/-- Settles O32: the turn a step takes, then what that turn runs. -/
theorem stepRunsTheDecodedInstruction : Obligations.StepRunsTheDecodedInstruction := by
  unfold Obligations.StepRunsTheDecodedInstruction
  refine ⟨?_, ?_, ?_, ?_, ?_, ?_⟩
  · intro s p l hslot hfree ha hp hirq hsi
    have hport : ({ s with agenda := l } : State).port p = s.port p := agenda_port s p l
    have hturn := takeTurn_event_enabled (s := { s with agenda := l }) hfree hp (by rwa [hport]) (by rwa [hport])
    rw [hport] at hturn
    rw [step_of_agenda hslot ha, hturn, actReadStatus, regRead, hport]
    rfl
  · intro s l i hslot hfree ha hcur
    exact (step_of_agenda hslot ha).trans (takeTurn_command_line hfree hcur)
  · intro s l r m i hslot hfree ha hcur hreq hcode
    rw [step_of_agenda hslot ha, takeTurn_command_request (s := { s with agenda := l }) hfree hcur hreq]
    exact runCode_ok _ hcode
  · intro s p a i hslot hcode
    rw [step_of_inject hslot]
    exact runCode_ok _ hcode
  · exact fun s u l hslot ha => step_of_agenda hslot ha
  · exact fun s hslot ha => step_of_empty hslot ha

/-- Settles O33: the command turn of an idle unit. -/
theorem commandTurnRefusesOrIdles : Obligations.CommandTurnRefusesOrIdles := by
  unfold Obligations.CommandTurnRefusesOrIdles
  constructor
  · intro s l r m e hslot hfree ha hcur hreq hcode
    rw [step_of_agenda hslot ha, takeTurn_command_request (s := { s with agenda := l }) hfree hcur hreq, runCode]
    simp only [hcode]
  · intro s l hslot ha hcur hreq
    exact (step_of_agenda hslot ha).trans (takeTurn_command_idle hcur hreq)

/-- Settles O34. -/
theorem eventNeedsRequestAndEnable : Obligations.EventNeedsRequestAndEnable := by
  unfold Obligations.EventNeedsRequestAndEnable
  intro s p l hslot ha h
  rw [step_of_agenda hslot ha]
  exact takeTurn_event_disabled (by rwa [agenda_port])

/-! ### The moves of the bus controller and of the host -/

/-- Clearing flags leaves the flags that share no bit with them. -/
theorem and_not_and_of_separate {m n : Word} (h : m &&& n = 0#32) (a : Word) : a &&& ~~~m &&& n = a &&& n := by
  ext i hi
  have hbit : (m[i] && n[i]) = false := by rw [← BitVec.getElem_and, h, BitVec.getElem_zero]
  rw [BitVec.getElem_and, BitVec.getElem_and, BitVec.getElem_and, BitVec.getElem_not]
  cases hm : m[i] <;> simp_all

/-- A move that changes one port as a bus controller does answers that port and no access. -/
theorem answersPort_modPort (p : PortId) (f : Port → Port) (s : State) : AnswersPort (.next (s.modPort p f)) s p (f (s.port p)) [] :=
  ⟨_, rfl, portStep_modPort p f s⟩

/-- Settles O35: each move is a change of one register of the port, of the queue or of one byte of host memory. -/
theorem busControllerAndHostMoves : Obligations.BusControllerAndHostMoves := by
  unfold Obligations.BusControllerAndHostMoves
  refine ⟨fun p w s hwf => ?_, fun _ _ => rfl, fun a b s hmem => ?_⟩
  · have flags := flagsSeparate_of_wf hwf
    refine ⟨fun hclear => ⟨?_, ?_⟩, fun hset => ?_, answersPort_modPort .., answersPort_modPort .., and_not_and_self .., ?_⟩
    · have hraise : takeTurn (.raise p w) s =
          .next (s.modPort p fun x => { x with stat := w, ctl := x.ctl ||| s.params.flag.si }) := by
        simp [takeTurn, busRaise, hclear]
      rw [hraise]
      exact answersPort_modPort ..
    · rw [or_and_self]
      exact flags.si_ne
    · exact congrArg _ (if_neg hset)
    · exact and_not_and_of_separate flags.stop_si _
  · exact ⟨_, rfl, fun x => hostRead_hostWrite hmem a x b, hostWrite_wf hmem a b, rfl⟩

/-! ### A block that a callback holds, and what every step keeps -/

/-- Settles O36: while a callback has not returned, the only form a step takes is a move of the outside world. -/
theorem hungCallbackStopsTheBlock : Obligations.HungCallbackStopsTheBlock := by
  unfold Obligations.HungCallbackStopsTheBlock
  intro s t q hhung hslot hstep
  obtain ⟨l, n, hruns⟩ := step_runs s
  generalize step s = r at hstep hruns
  have held (h : s.body.hung = none) : False := nomatch hhung.symm.trans h
  cases hruns with
  | event _ hfree => exact (held hfree).elim
  | line _ hfree => exact (held hfree).elim
  | accept _ _ _ hfree => exact (held hfree).elim
  | injected _ _ _ hsome => exact nomatch hslot.symm.trans hsome
  | undecodable => cases hstep
  | outside u hout =>
    cases hstep
    exact ⟨hout.body, hout.inject.trans hslot, hout.trace, hout.cu, hout.tmo, hout.resp, hout.params, hout.port⟩

/-- Whatever an instruction answers a next state keeps the parameters and appends to the trace. -/
theorem exec_extends {i : Instr} (hexec : exec i s = .next t) : t.params = s.params ∧ ∃ es, t.trace = s.trace ++ es := by
  cases hi : i.isEvent with
  | true =>
    obtain ⟨-, y, es, -, -, htrace, -, -, -, -, -, hparams, -⟩ := event_next hi hexec
    exact ⟨hparams, es, htrace⟩
  | false =>
    obtain ⟨es, hstep⟩ := foreground_next hi hexec
    exact ⟨hstep.params, es, hstep.trace⟩

/-- Settles O46: an event adds its accesses after the read of STAT, anything else its own. -/
theorem stepKeepsParametersAndExtendsTrace : Obligations.StepKeepsParametersAndExtendsTrace := by
  unfold Obligations.StepKeepsParametersAndExtendsTrace
  intro s t hstep
  obtain ⟨l, n, hruns⟩ := step_runs s
  generalize step s = r at hstep hruns
  cases hruns with
  | event p =>
    obtain ⟨hparams, es, htrace⟩ := exec_extends hstep
    rw [actReadStatus, regRead_trace, List.append_assoc] at htrace
    exact ⟨hparams, _, htrace⟩
  | line i | accept _ _ i | injected _ _ i =>
    have hexec := exec_extends hstep
    exact hexec
  | undecodable => cases hstep
  | outside u hout =>
    cases hstep
    exact ⟨hout.params, [], hout.trace.trans (List.append_nil _).symm⟩

/-- No event writes irq_en. -/
theorem eventEffect_irqEn {P : Params} {x y : Port} {i : Instr} {es : List TraceEntry} (h : EventEffect P x i y es) :
    y.irqEn = x.irqEn := by
  cases h <;> rfl

/-- IrqEnable is performed by line 5 of INIT and by nothing else (R54). -/
theorem exec_irqEn {i : Instr} (hexec : exec i s = .next t) (q : PortId) :
    (t.port q).irqEn = (s.port q).irqEn ∨
      (i = .init q ∧ s.cu.line = 5 ∧ (t.port q).irqEn = true ∧ t.trace = s.trace ++ [.irqEn q]) := by
  cases hi : i.isEvent with
  | true =>
    obtain ⟨-, y, es, heffect, hport, -, -, -, -, -, hothers, -⟩ := event_next hi hexec
    refine .inl ?_
    by_cases hq : q = i.port
    · rw [hq, hport, eventEffect_irqEn heffect]
    · rw [hothers q hq]
  | false =>
    obtain ⟨es, hstep⟩ := foreground_next hi hexec
    by_cases hq : q = i.port
    · subst hq
      obtain hsame | ⟨hinit, hline, hset, hes⟩ := hstep.irqEn
      · exact .inl hsame
      · exact .inr ⟨hinit, hline, hset, by rw [hstep.trace, hes]⟩
    · exact .inl (by rw [hstep.others q hq])

/-- A step keeps the interrupt enable of a port or has performed IrqEnable for it. -/
theorem step_irqEn (hstep : step s = .next t) (q : PortId) :
    (t.port q).irqEn = (s.port q).irqEn ∨
      ((t.port q).irqEn = true ∧ ∃ s', exec (.init q) s' = .next t ∧ s'.cu.line = 5 ∧ t.trace = s.trace ++ [.irqEn q]) := by
  have ran {i : Instr} {s' : State} (hexec : exec i s' = .next t) (hport : s'.port q = s.port q) (htrace : s'.trace = s.trace) :
      (t.port q).irqEn = (s.port q).irqEn ∨
        ((t.port q).irqEn = true ∧ ∃ s', exec (.init q) s' = .next t ∧ s'.cu.line = 5 ∧ t.trace = s.trace ++ [.irqEn q]) := by
    obtain hsame | ⟨rfl, hline, hset, hentry⟩ := exec_irqEn hexec q
    · exact .inl (hport ▸ hsame)
    · exact .inr ⟨hset, s', hexec, hline, htrace ▸ hentry⟩
  obtain ⟨l, n, hruns⟩ := step_runs s
  generalize step s = r at hstep hruns
  cases hruns with
  | event p =>
    obtain hsame | ⟨hinit, -⟩ := exec_irqEn hstep q
    · rw [actReadStatus, regRead_port] at hsame
      exact .inl (hsame.trans (congrArg Port.irqEn (port_eq_of_fields rfl rfl rfl q)))
    · exact nomatch (congrArg Instr.isEvent hinit).symm.trans (classify_isEvent ..)
  | line i | accept _ _ i | injected _ _ i => exact ran hstep (port_eq_of_fields rfl rfl rfl q) rfl
  | undecodable => cases hstep
  | outside u hout =>
    cases hstep
    exact .inl (by rw [hout.port q])

/-- Settles O51. -/
theorem interruptEnableIsOnlySetByInit : Obligations.InterruptEnableIsOnlySetByInit := by
  unfold Obligations.InterruptEnableIsOnlySetByInit
  intro s t q hstep
  obtain hsame | ⟨hset, hinit⟩ := step_irqEn hstep q
  · exact ⟨hsame.trans, fun hunset hset => nomatch hunset.symm.trans (hsame.symm.trans hset)⟩
  · exact ⟨fun _ => hset, fun _ _ => hinit⟩

/-! ### The state after reset -/

theorem resetWith_port (P : Params) (tx rx : PortId → Nat → Byte) (p : PortId) :
    (State.resetWith P tx rx).port p = Port.reset P.cap (tx p) (rx p) := by
  cases p <;> rfl

/-- Settles O37. -/
theorem resetLeavesTheStatedValues : Obligations.ResetLeavesTheStatedValues := by
  unfold Obligations.ResetLeavesTheStatedValues
  intro P tx rx p
  have buffer (f : Nat → Byte) {i : Nat} (hi : i < P.cap) : ((List.range P.cap).map f)[i]? = some (f i) := by
    rw [List.getElem?_map, List.getElem?_range hi, Option.map_some]
  have length (f : Nat → Byte) : ((List.range P.cap).map f).length = P.cap := by
    rw [List.length_map, List.length_range]
  rw [resetWith_port]
  exact ⟨rfl, rfl, rfl, rfl, rfl, rfl, rfl, rfl, rfl, rfl, rfl, length _, length _,
    fun i hi => ⟨buffer _ hi, buffer _ hi⟩, _, _, rfl⟩

/-- Settles O44: after reset every cursor is 0, the buffers have `CAP` bytes and the unit is idle. -/
theorem resetSatisfiesTheInvariant : Obligations.ResetSatisfiesTheInvariant := by
  unfold Obligations.ResetSatisfiesTheInvariant
  have sound (P : Params) (tx rx : PortId → Nat → Byte) (hwf : P.wf = true) : (State.resetWith P tx rx).Inv := by
    refine inv_iff.2 ⟨⟨hwf, fun p => ?_, Nat.zero_le _, nofun, memory_wf_nil⟩, nofun⟩
    rw [resetWith_port]
    refine ⟨?_, ?_, Nat.zero_le _, Nat.zero_le _, Nat.zero_le _, Nat.zero_le _, nofun, nofun⟩ <;>
      exact (List.length_map _).trans List.length_range
  exact ⟨sound, sound _ _ _ (by decide)⟩

/-! ### The addresses of the registers (R47, R49) -/

/-- The place of a register among the six of a port. -/
def placeInPort : Reg → Nat
  | .conset => 0
  | .conclr => 1
  | .stat => 2
  | .dat => 3
  | .sclh => 4
  | .scll => 5

/-- The place of a register of a port in the list of all eighteen. -/
def registerPlace (p : PortId) (r : Reg) : Nat := 6 * p.index + placeInPort r

theorem registerPlace_inj {r r' : Reg} (h : registerPlace p r = registerPlace q r') : p = q ∧ r = r' := by
  have below (r : Reg) : placeInPort r < 6 := by cases r <;> decide
  have hbelow := below r
  have hbelow' := below r'
  unfold registerPlace at h
  have hport : p.index = q.index := by omega
  have hreg : placeInPort r = placeInPort r' := by omega
  constructor
  · cases p <;> cases q <;> cases hport <;> rfl
  · cases r <;> cases r' <;> cases hreg <;> rfl

theorem getElem?_registerPlace (P : Params) (p : PortId) (r : Reg) :
    (P.reg0.toList ++ P.reg1.toList ++ P.reg2.toList)[registerPlace p r]? = some (P.addrOf p r) := by
  cases p <;> cases r <;> rfl

/-- Settles O57: the eighteen addresses are aligned and distinct, and each register has its place among them. -/
theorem registerAddressesAlignedAndDistinct : Obligations.RegisterAddressesAlignedAndDistinct := by
  unfold Obligations.RegisterAddressesAlignedAndDistinct
  intro P hwf
  obtain ⟨hnodup, haligned⟩ := addresses_of_wf hwf
  have aligned (p : PortId) (r : Reg) : P.addrOf p r &&& 3 = 0 :=
    haligned _ (List.mem_of_getElem? (getElem?_registerPlace P p r))
  refine ⟨fun _ _ _ => rfl, fun _ _ _ => rfl, fun e a ha => ?_, fun p q r r' heq => registerPlace_inj ?_⟩
  · cases e with
    | regRead p r w => cases ha; exact aligned p _
    | regWrite p r w => cases ha; exact aligned p _
    | irqEn => cases ha
    | cb => cases ha
  · have hp := getElem?_registerPlace P p r
    have hq := getElem?_registerPlace P q r'
    have hlt := (List.getElem?_eq_some_iff.1 hp).1
    exact (List.getElem?_inj hlt hnodup).1 (by rw [hp, hq, heq])

end Sys2Proof.Machine
end

section
/-! What can fault (R45): under the invariant no action and no line of a command, and an event only at index CAP. -/

namespace Sys2Proof.Machine

variable {s t : State} {p : PortId} {i : Instr} {f : Fault} {k : Result}

theorem fault_of_withPort (h : withPort p s k = .fault f) : k = .fault f := by
  unfold withPort at h
  split at h
  · exact h
  · cases h

theorem fault_of_withArray {a : HostArray} {n : Nat} (h : withArray a n k = .fault f) : k = .fault f := by
  unfold withArray at h
  split at h
  · exact h
  · cases h

theorem withCapacity_fault {nw nr : Nat} (h : withCapacity nw nr s k = .fault f) :
    (nw + 2 ≤ s.params.cap ∧ nr ≤ s.params.cap) ∧ k = .fault f := by
  unfold withCapacity at h
  split at h
  · exact ⟨‹_›, h⟩
  · cases h

/-- A write inside the transmit buffer, followed by what does not fault, does not fault. -/
theorem txPut_ne_fault {n : Nat} {b : Byte} {g : State → State} (hn : n < (s.port p).txbuf.length) :
    txPut p n b s (fun u => .next (g u)) ≠ .fault f := by
  rw [txPut_pos _ _ _ hn]
  nofun

/-- Past the capacity test of WRITE its bytes fit the transmit buffer (R102). -/
theorem exec_write_ne_fault {a size : Nat} {d : HostArray} (h : CoreSound s)
    (hline : LineSound s.params (.write p a d size) s.cu.line s.cu.seen s.tmo) : exec (.write p a d size) s ≠ .fault f := by
  intro hexec
  obtain ⟨-, hfits, -, -⟩ := hline
  have hlen : (s.port p).txbuf.length = s.params.cap := (h.ports p).1
  have hexec := fault_of_withArray (fault_of_withPort hexec)
  have fits (hpast : 2 ≤ s.cu.line ∧ s.cu.line ≤ 7) : size + 1 ≤ s.params.cap := hfits hpast
  split at hexec
  case h_1 => exact txPut_ne_fault (by have := fits (by omega); omega) hexec
  case h_2 =>
    split at hexec
    · exact txPut_ne_fault (by have := fits (by omega); omega) hexec
    · cases hexec
  case h_7 => split at hexec <;> cases hexec
  all_goals cases hexec

/-- Behind the capacity test of READ its bytes fit both buffers (R103). -/
theorem exec_read_ne_fault {a nw nr : Nat} {d o : HostArray} (h : CoreSound s) : exec (.read p a d nw o nr) s ≠ .fault f := by
  intro hexec
  obtain ⟨htx, hrx, -⟩ := h.ports p
  obtain ⟨⟨hnw, hnr⟩, hexec⟩ := withCapacity_fault (fault_of_withArray (fault_of_withArray (fault_of_withPort hexec)))
  split at hexec
  case h_1 => exact txPut_ne_fault (by omega) hexec
  case h_2 =>
    split at hexec
    · exact txPut_ne_fault (by omega) hexec
    · exact txPut_ne_fault (by omega) hexec
  case h_3 => exact txPut_ne_fault (by omega) hexec
  case h_7 =>
    split at hexec
    · obtain ⟨hover, -⟩ | ⟨b, -, hexec⟩ := (rxFetch_fault ..).1 hexec
      · omega
      · cases hexec
    · cases hexec
  all_goals cases hexec

/-- No line of a command faults. -/
theorem exec_command_ne_fault (h : CoreSound s) (hline : LineSound s.params i s.cu.line s.cu.seen s.tmo) :
    exec i s ≠ .fault f := by
  have hcommand := hline.1
  cases i with
  | write p a d size => exact exec_write_ne_fault h hline
  | read p a d nw o nr => exact exec_read_ne_fault h
  | init p | start p | stop p | engine p =>
    intro hexec
    have hexec := fault_of_withPort hexec
    split at hexec <;> cases hexec
  | setHandler p _ | getState p =>
    intro hexec
    cases fault_of_withPort hexec
  | _ => cases hcommand

/-- An action accesses no buffer. -/
theorem exec_action_ne_fault (hc : i.isCommand = false) (he : i.isEvent = false) : exec i s ≠ .fault f := by
  cases i with
  | assertStart _ | clearStartSI _ | assertStop _ | assertAck _ | assertNack _ | clearSI _ | writeData _ _ | readData _
  | readStatus _ | initClear _ | initEnable _ | initDivisors _ =>
    intro hexec
    cases fault_of_withPort hexec
  | init _ | setHandler _ _ | write _ _ _ _ | read _ _ _ _ _ _ | start _ | stop _ | getState _ | engine _ => cases hc
  | _ => cases he

/-- On a sound port an overrun is at index CAP: the read-address byte, or a byte received. -/
theorem eventOverrun_atCapacity {which : Buffer} {n cap : Nat} (hcap : 2 ≤ cap) (hsound : (s.port i.port).Sound cap)
    (h : EventOverrun s i which n t) :
    n = cap ∧
      ((which = .tx ∧ (s.port i.port).txlen = cap ∧ t = s.modPort i.port fun x => { x with rxcur := 0 }) ∨
        (which = .rx ∧ (s.port i.port).rxcur = cap ∧ t = s.log (.regRead i.port .dat (s.port i.port).dat))) := by
  obtain ⟨htx, hrx, hlen, -, -, hcur, -⟩ := hsound
  cases h with
  | start p h =>
    have hempty : (s.port p).txbuf.length = cap := htx
    omega
  | rstart p h =>
    have hfull : (s.port p).txlen = cap := hlen.antisymm (htx ▸ h)
    exact ⟨hfull, .inl ⟨rfl, hfull, rfl⟩⟩
  | send i p hi hc h =>
    rcases hi with rfl | rfl <;>
      exact absurd (hc.trans_le hlen) (htx ▸ h).not_gt
  | store i p hi h =>
    rcases hi with rfl | rfl
    all_goals
      have hfull : (s.port p).rxcur = cap := hcur.antisymm (hrx ▸ h)
      exact ⟨hfull, .inr ⟨rfl, hfull, rfl⟩⟩

/-- Settles O56: of the forms of a step only an event can fault, and its overrun is at index CAP. -/
theorem onlyEventsFaultAndOnlyAtCapacity : Obligations.OnlyEventsFaultAndOnlyAtCapacity := by
  unfold Obligations.OnlyEventsFaultAndOnlyAtCapacity
  intro s f hinv hstep
  obtain ⟨l, n, hruns⟩ := step_runs s
  obtain ⟨hcore, hcur⟩ := inv_iff.1 hinv
  generalize step s = r at hstep hruns
  have turns : ({ s with agenda := l, draws := n } : State).Inv := inv_outside hinv (outsideStep_turns s l n)
  have turnsPort (q : PortId) : ({ s with agenda := l, draws := n } : State).port q = s.port q := port_eq_of_fields rfl rfl rfl q
  cases hruns with
  | event p _ henabled =>
    obtain ⟨-, hirq, hsi⟩ := eventEnabled_iff.1 henabled
    have readPort (q : PortId) : (actReadStatus p { s with agenda := l, draws := n }).port q = s.port q := by
      rw [actReadStatus, regRead_port, turnsPort]
    have hi := classify_isEvent s.params.sc p (lowByte (s.port p).stat)
    have hport := classify_port s.params.sc p (lowByte (s.port p).stat)
    obtain ⟨-, which, index, t, haccess, rfl⟩ := (event_fault_iff hi).1 hstep
    rw [hport] at hstep ⊢
    have hcapacity := eventOverrun_atCapacity (two_le_cap_of_wf hcore.params) (by rw [readPort]; exact hcore.ports _) haccess
    rw [hport, readPort] at hcapacity
    obtain ⟨rfl, hwhere⟩ := hcapacity
    obtain ⟨y, es, -, -, -, -, -, -, hothers, -⟩ := eventOverrun_portStep haccess
    refine ⟨p, which, t, rfl, fun q hq => ?_, hirq, hsi, ⟨_, _, hi, hport, readPort, rfl, hstep⟩, ?_⟩
    · rw [hothers q (hport.symm ▸ hq), readPort]
    · obtain ⟨hwhich, hfull, rfl⟩ | ⟨hwhich, hfull, rfl⟩ := hwhere
      · refine .inl ⟨hwhich, hfull, ?_, ?_⟩
        · rw [modPort_port_same, readPort]
        · rw [modPort_trace, actReadStatus, regRead_trace, turnsPort]
          rfl
      · refine .inr ⟨hwhich, hfull, ?_, ?_⟩
        · rw [log_port, readPort]
        · rw [log_trace, actReadStatus, regRead_trace, turnsPort, List.append_assoc]
          rfl
  | line i _ hi => exact absurd hstep (exec_command_ne_fault (inv_iff.1 turns).1 (hcur i hi))
  | accept r m i _ _ _ hcode =>
    exact absurd hstep (exec_command_ne_fault (coreSound_idle hcore) (lineSound_accepted (decodeRequest_isCommand hcode)))
  | injected p a i _ hcode =>
    obtain ⟨he, hc⟩ := decodeAccess_kind hcode
    exact absurd hstep (exec_action_ne_fault hc he)
  | undecodable => cases hstep
  | outside => cases hstep

end Sys2Proof.Machine
end

section
/-! Every command ends (R166 (1)). A rank counts the lines a command has still to perform at most, the iterations of its wait included: each
line of the command lowers it, and nothing else touches it. Between two lines only finitely many turns of the agenda are taken. -/

namespace Sys2Proof.Machine

variable {s t : State} {p : PortId} {i : Instr}

/-! ### The rank -/

/-- The lines of ENGINE to come, its wait being bounded by the ceiling `C` (R104 to R106). -/
def engineRank (C tmo : Nat) : Nat → Nat
  | 2 => 4 * C + 5
  | 3 => 4 * (C - tmo) + 4
  | 4 => 4 * (C - tmo) + 3
  | 5 => 4 * (C - tmo) + 2
  | 6 => 4 * (C - tmo) + 1
  | 7 => 4 * (C - tmo) + 4
  | 8 => 3
  | 9 => 2
  | 10 => 1
  | _ => 4 * C + 6

/-- The lines of START to come, its wait being bounded (R108). -/
def startRank (C tmo : Nat) : Nat → Nat
  | 2 => 5 * C + 6
  | 3 => 5 * (C - tmo) + 5
  | 4 => 5 * (C - tmo) + 4
  | 5 => 5 * (C - tmo) + 3
  | 6 => 5 * (C - tmo) + 2
  | 7 => 5 * (C - tmo) + 1
  | 8 => 5 * (C - tmo) + 5
  | 9 => 2
  | 10 => 1
  | _ => 5 * C + 7

/-- The lines of STOP to come, its wait being bounded (R109). -/
def stopRank (C tmo : Nat) : Nat → Nat
  | 2 => 4 * (C - tmo) + 4
  | 3 => 4 * (C - tmo) + 3
  | 4 => 4 * (C - tmo) + 2
  | 5 => 4 * (C - tmo) + 1
  | 6 => 4 * (C - tmo) + 4
  | _ => 4 * C + 5

/-- The lines of INIT to come (R100). -/
def initRank : Nat → Nat
  | 2 => 5
  | 3 => 4
  | 4 => 3
  | 5 => 2
  | 6 => 1
  | _ => 6

/-- The lines of WRITE to come, those of the ENGINE it calls included (R102). -/
def writeRank (C size idx : Nat) : Nat → Nat
  | 2 => 4 * C + 12 + size
  | 3 => 4 * C + 11 + (size - idx)
  | 4 => 4 * C + 10
  | 5 => 4 * C + 9
  | 6 => 4 * C + 8
  | 7 => 1
  | _ => 4 * C + 13 + size

/-- The lines of READ to come, those of the ENGINE it calls included (R103). -/
def readRank (C nw nr idx : Nat) : Nat → Nat
  | 1 => 4 * C + nr + 13 + nw
  | 2 => 4 * C + nr + 12 + (nw - idx)
  | 3 => 4 * C + nr + 11
  | 4 => 4 * C + nr + 10
  | 5 => 4 * C + nr + 9
  | 6 => 4 * C + nr + 8
  | 7 => nr - idx + 1
  | 8 => 1
  | _ => 4 * C + nr + 14 + nw

/-- The lines to come of the command that called ENGINE. -/
def callerRank : Option Instr → Nat
  | some (.write _ _ _ _) => 1
  | some (.read _ _ _ _ _ nr) => nr + 1
  | _ => 0

/-- The lines to come of a command `i` at line `n`, with the other locals of the unit and `tmo`. -/
def lineRank (C : Nat) (caller : Option Instr) (idx tmo : Nat) (i : Instr) (n : Nat) : Nat :=
  match i with
  | .init _ => initRank n
  | .write _ _ _ size => writeRank C size idx n
  | .read _ _ _ nw _ nr => readRank C nw nr idx n
  | .engine _ => engineRank C tmo n + callerRank caller
  | .start _ => startRank C tmo n
  | .stop _ => stopRank C tmo n
  | _ => 1

/-- The lines the command in progress has still to perform at most. -/
def State.rank (s : State) : Nat :=
  match s.cu.cur with
  | some i => lineRank s.params.ceiling s.cu.caller s.cu.idx s.tmo i s.cu.line
  | none => 0

/-- The command has responded, or goes on with a rank below `r`. -/
def Advances (r : Nat) (t : State) : Prop :=
  (t.cu.cur = none ∧ t.resp ≠ none) ∨ (t.cu.cur ≠ none ∧ t.rank < r)

theorem advances_respond {r : Nat} {x : Response} : Advances r (respond x s) := .inl ⟨rfl, nofun⟩

theorem advances_goto {r n : Nat} (h : lineRank s.params.ceiling s.cu.caller s.cu.idx s.tmo i n < r) : Advances r (goto i n s) :=
  .inr ⟨nofun, h⟩

theorem advances_goFor {r n : Nat} (h : lineRank s.params.ceiling s.cu.caller 0 s.tmo i n < r) : Advances r (goFor i n s) :=
  .inr ⟨nofun, h⟩

theorem advances_nextByte {r n : Nat} (h : lineRank s.params.ceiling s.cu.caller (s.cu.idx + 1) s.tmo i n < r) :
    Advances r (nextByte i n s) :=
  .inr ⟨nofun, h⟩

theorem advances_callEngine {r : Nat} (h : engineRank s.params.ceiling s.tmo 1 + callerRank (some i) < r) :
    Advances r (callEngine i s) :=
  .inr ⟨nofun, h⟩

/-! ### Each line lowers it -/

theorem exec_init_advances (hexec : exec (.init p) s = .next t) : Advances (initRank s.cu.line) t := by
  obtain ⟨-, hexec⟩ := (withPort_next ..).1 hexec
  split at hexec <;> cases hexec
  case h_5 => exact advances_respond
  all_goals exact advances_goto (by simp [lineRank, initRank, *])

theorem exec_stop_advances (hb : s.params.manualWaitBounded = true)
    (hline : LineSound s.params (.stop p) s.cu.line s.cu.seen s.tmo) (hexec : exec (.stop p) s = .next t) :
    Advances (stopRank s.params.ceiling s.tmo s.cu.line) t := by
  have hbelow := lineSound_stop.1 hline
  obtain ⟨-, hexec⟩ := (withPort_next ..).1 hexec
  split at hexec <;> cases hexec
  case h_1 => exact advances_goto (by simp [lineRank, stopRank, actAssertStop, *])
  case h_2 =>
    split
    · exact advances_goto (by simp [lineRank, stopRank, *])
    · exact advances_respond
  case h_3 => exact advances_goto (by simp [lineRank, stopRank, *])
  case h_4 e =>
    have := hbelow (by omega)
    exact advances_goto (by simp only [lineRank, stopRank, tmoTick_params, tmoTick_tmo, e]; omega)
  case h_5 =>
    split
    · exact advances_respond
    · exact advances_goto (by simp [lineRank, stopRank, *])
  case h_6 => exact advances_goto (by simp [lineRank, stopRank, *])

theorem exec_start_advances (hb : s.params.manualWaitBounded = true)
    (hline : LineSound s.params (.start p) s.cu.line s.cu.seen s.tmo) (hexec : exec (.start p) s = .next t) :
    Advances (startRank s.params.ceiling s.tmo s.cu.line) t := by
  obtain ⟨hbelow, -⟩ := lineSound_start.1 hline
  obtain ⟨-, hexec⟩ := (withPort_next ..).1 hexec
  split at hexec <;> cases hexec
  case h_1 => exact advances_goto (by simp [lineRank, startRank, *])
  case h_2 => exact advances_goto (by simp [lineRank, startRank, actAssertStart, *])
  case h_3 => exact advances_goto (by simp [lineRank, startRank, *])
  case h_4 =>
    refine advances_goto ?_
    split <;> simp [lineRank, startRank, *]
  case h_5 => exact advances_goto (by simp [lineRank, startRank, *])
  case h_6 e =>
    have := hbelow (by omega)
    exact advances_goto (by simp only [lineRank, startRank, tmoTick_params, tmoTick_tmo, e]; omega)
  case h_7 =>
    refine advances_goto ?_
    split <;> simp [lineRank, startRank, *]
  case h_8 => exact advances_goto (by simp [lineRank, startRank, *])
  case h_9 => exact advances_respond
  case h_10 => exact advances_goto (by simp [lineRank, startRank, *])

/-- ENGINE's last line goes on in its caller, whose rank is already counted, or responds. -/
theorem exec_engine_advances (h : CoreSound s) (hline : LineSound s.params (.engine p) s.cu.line s.cu.seen s.tmo)
    (hexec : exec (.engine p) s = .next t) :
    Advances (engineRank s.params.ceiling s.tmo s.cu.line + callerRank s.cu.caller) t := by
  obtain ⟨hbelow, -⟩ := lineSound_engine.1 hline
  obtain ⟨-, hexec⟩ := (withPort_next ..).1 hexec
  split at hexec <;> cases hexec
  case h_1 => exact advances_goto (by simp [lineRank, engineRank, *])
  case h_2 => exact advances_goto (by simp [lineRank, engineRank, actAssertStart, *])
  case h_3 => exact advances_goto (by simp [lineRank, engineRank, *])
  case h_4 e =>
    have := hbelow (by omega)
    refine advances_goto ?_
    split <;> simp [lineRank, engineRank, *]
  case h_5 e =>
    have := hbelow (by omega)
    exact advances_goto (by simp only [lineRank, engineRank, tmoTick_params, tmoTick_tmo, tmoTick_cu, e]; omega)
  case h_6 =>
    refine advances_goto ?_
    split <;> simp [lineRank, engineRank, *]
  case h_7 => exact advances_goto (by simp [lineRank, engineRank, *])
  case h_8 => exact advances_goto (by simp [lineRank, engineRank, *])
  case h_9 =>
    unfold engineReturn
    split
    case h_1 c hc =>
      refine .inr ⟨nofun, ?_⟩
      obtain ⟨-, ⟨p, a, d, n, rfl⟩ | ⟨p, a, d, nw, o, nr, rfl⟩⟩ := h.caller _ hc
      · simp [State.rank, lineRank, writeRank, engineRank, callerRank, *]
      · simp [State.rank, lineRank, readRank, engineRank, callerRank, *]
    case h_2 => exact advances_respond
  case h_10 => exact advances_goto (by simp [lineRank, engineRank, *])

theorem exec_write_advances {a size : Nat} {d : HostArray} (hexec : exec (.write p a d size) s = .next t) :
    Advances (writeRank s.params.ceiling size s.cu.idx s.cu.line) t := by
  obtain ⟨-, hexec⟩ := (withPort_next ..).1 hexec
  obtain ⟨-, hexec⟩ := (withArray_next ..).1 hexec
  have length {r : Nat} (hr : 4 * s.params.ceiling + 9 < r) (hnext : writeLength p (.write p a d size) size s = .next t) :
      Advances r t := by
    cases hnext
    exact advances_goto (by simpa [lineRank, writeRank] using hr)
  split at hexec
  case h_1 =>
    obtain ⟨-, hexec⟩ := (txPut_next ..).1 hexec
    cases hexec
    exact advances_goFor (by simp [lineRank, writeRank, *])
  case h_2 =>
    split at hexec
    · obtain ⟨-, hexec⟩ := (txPut_next ..).1 hexec
      cases hexec
      refine advances_nextByte ?_
      simp only [lineRank, writeRank, modPort_params, modPort_cu, *]
      omega
    · exact length (by simp only [writeRank, *]; omega) hexec
  case h_3 => exact length (by simp [writeRank, *]) hexec
  case h_4 =>
    cases hexec
    exact advances_goto (by simp [lineRank, writeRank, *])
  case h_5 =>
    cases hexec
    exact advances_callEngine (by simp [engineRank, callerRank, writeRank, *])
  case h_6 =>
    cases hexec
    exact advances_respond
  case h_7 =>
    split at hexec <;> cases hexec
    · exact advances_respond
    · exact advances_goto (by simp [lineRank, writeRank, *])

theorem exec_read_advances {a nw nr : Nat} {d o : HostArray} (hexec : exec (.read p a d nw o nr) s = .next t) :
    Advances (readRank s.params.ceiling nw nr s.cu.idx s.cu.line) t := by
  obtain ⟨-, hexec⟩ := (withPort_next ..).1 hexec
  obtain ⟨-, hexec⟩ := (withArray_next ..).1 hexec
  obtain ⟨-, hexec⟩ := (withArray_next ..).1 hexec
  obtain ⟨-, hexec⟩ := (withCapacity_next ..).1 hexec
  have address {r : Nat} (hr : 4 * s.params.ceiling + nr + 10 < r)
      (hnext : readAddress p (.read p a d nw o nr) a nw s = .next t) : Advances r t := by
    obtain ⟨-, hnext⟩ := (txPut_next ..).1 hnext
    cases hnext
    exact advances_goto (by simpa [lineRank, readRank] using hr)
  split at hexec
  case h_1 =>
    obtain ⟨-, hexec⟩ := (txPut_next ..).1 hexec
    cases hexec
    refine advances_goFor ?_
    simp [lineRank, readRank, *]
  case h_2 =>
    split at hexec
    · obtain ⟨-, hexec⟩ := (txPut_next ..).1 hexec
      cases hexec
      refine advances_nextByte ?_
      simp only [lineRank, readRank, modPort_params, modPort_cu, *]
      omega
    · exact address (by simp only [readRank, *]; omega) hexec
  case h_3 => exact address (by simp [readRank, *]) hexec
  case h_4 =>
    cases hexec
    exact advances_goto (by simp [lineRank, readRank, *])
  case h_5 =>
    cases hexec
    exact advances_goto (by simp [lineRank, readRank, *])
  case h_6 =>
    cases hexec
    refine advances_callEngine ?_
    simp only [engineRank, callerRank, readRank, *]
    omega
  case h_7 =>
    split at hexec
    · obtain ⟨b, -, hexec⟩ := (rxFetch_next ..).1 hexec
      cases hexec
      refine advances_nextByte ?_
      simp only [lineRank, readRank, hostWrite_cu, *]
      omega
    · cases hexec
      exact advances_respond
  case h_8 =>
    cases hexec
    exact advances_respond
  case h_9 =>
    cases hexec
    refine advances_goto ?_
    simp [lineRank, readRank, *]

/-- A line of the command in progress lowers the rank or responds. -/
theorem exec_line_advances (h : CoreSound s) (hb : s.params.manualWaitBounded = true) (hcur : s.cu.cur = some i)
    (hline : LineSound s.params i s.cu.line s.cu.seen s.tmo) (hexec : exec i s = .next t) : Advances s.rank t := by
  have hcommand := hline.1
  rw [State.rank, hcur]
  cases i with
  | init p => exact exec_init_advances hexec
  | write p a d size => exact exec_write_advances hexec
  | read p a d nw o nr => exact exec_read_advances hexec
  | start p => exact exec_start_advances hb hline hexec
  | stop p => exact exec_stop_advances hb hline hexec
  | engine p => exact exec_engine_advances h hline hexec
  | setHandler p _ | getState p =>
    obtain ⟨-, hexec⟩ := (withPort_next ..).1 hexec
    cases hexec
    exact advances_respond
  | _ => cases hcommand

/-! ### What comes between two lines -/

/-- The turns before the next one of the command unit, were the agenda to run out once. -/
def State.turnsAhead (s : State) : Nat := (s.agenda ++ Config.oracle s.draws ++ [Turn.command]).idxOf Turn.command

/-- The steps before the next turn of the command unit: an injected action comes before the turns. -/
def State.stepsAhead (s : State) : Nat := if s.inject.isSome then s.turnsAhead + 1 else s.turnsAhead

theorem turnsAhead_congr (hagenda : t.agenda = s.agenda) (hdraws : t.draws = s.draws) : t.turnsAhead = s.turnsAhead := by
  rw [State.turnsAhead, hagenda, hdraws, State.turnsAhead]

/-- A turn of another agent brings the command unit's next turn nearer, the filling of an empty agenda included. -/
theorem turnsAhead_lt {u : Turn} {l : List Turn} (hhead : s.schedule.agenda = u :: l) (hu : u ≠ .command)
    (hagenda : t.agenda = l) (hdraws : t.draws = s.schedule.draws) : t.turnsAhead < s.turnsAhead := by
  unfold State.turnsAhead
  cases ha : s.agenda with
  | cons v m =>
    rw [schedule_cons s ha, ha] at hhead
    rw [schedule_cons s ha] at hdraws
    cases hhead
    rw [hagenda, hdraws, List.cons_append, List.cons_append, List.idxOf_cons_ne _ hu]
    exact Nat.lt_succ_self _
  | nil =>
    rw [schedule_nil s ha] at hhead
    have hfilled : Config.oracle s.draws ++ [.command] = u :: l := hhead
    have hmem : Turn.command ∈ l := by
      have hmem : Turn.command ∈ u :: l := hfilled ▸ List.mem_append_right _ (List.mem_singleton_self _)
      exact (List.mem_cons.1 hmem).resolve_left hu.symm
    rw [List.nil_append, hfilled, List.idxOf_cons_ne _ hu, hagenda, List.append_assoc, List.idxOf_append_of_mem hmem]
    exact Nat.lt_succ_self _

/-- The forms of a step that are not the command unit's leave the unit, `tmo`, the parameters and the turns to come. -/
structure Between (s t : State) (l : List Turn) (n : Nat) : Prop where
  params : t.params = s.params
  cu : t.cu = s.cu
  tmo : t.tmo = s.tmo
  agenda : t.agenda = l
  draws : t.draws = n
  inject : t.inject = none

theorem Between.rank {l : List Turn} {n : Nat} (h : Between s t l n) : t.rank = s.rank := by
  rw [State.rank, h.cu, h.params, h.tmo, State.rank]

theorem Between.modPort {l : List Turn} {n : Nat} {f : Port → Port} (h : Between s t l n) : Between s (t.modPort p f) l n :=
  ⟨(modPort_params ..).trans h.params, (modPort_cu ..).trans h.cu, (modPort_tmo ..).trans h.tmo,
    (modPort_agenda ..).trans h.agenda, (modPort_draws ..).trans h.draws, (modPort_inject ..).trans h.inject⟩

/-- The event step of a turn, an idle turn or a move of the outside world. -/
theorem between_takeTurn {u : Turn} {l : List Turn} {n : Nat} (hslot : s.inject = none) (hu : u ≠ .command)
    (hturn : takeTurn u { s with agenda := l, draws := n } = .next t) : Between s t l n := by
  have idle : Between s { s with agenda := l, draws := n } l n := ⟨rfl, rfl, rfl, rfl, rfl, hslot⟩
  cases u with
  | command => exact absurd rfl hu
  | event p =>
    obtain ⟨-, hevent⟩ | ⟨-, rfl⟩ := (unlessHung_next ..).1 hturn
    · unfold eventTurn at hevent
      split at hevent
      · rw [handleInterrupt_eq] at hevent
        obtain ⟨-, y, es, -, -, -, -, hcu, htmo, -, -, hparams, -, -, -, hagenda, hdraws, hinject⟩ :=
          event_next (classify_isEvent ..) hevent
        exact ⟨hparams, hcu, htmo, hagenda, hdraws, hinject.trans hslot⟩
      · cases hevent
        exact idle
    · exact idle
  | raise p w =>
    cases hturn
    unfold busRaise
    split
    · exact idle.modPort
    · exact idle
  | load p w | stopSent p =>
    cases hturn
    exact idle.modPort
  | host r | hostStore a b =>
    cases hturn
    exact ⟨rfl, rfl, rfl, rfl, rfl, hslot⟩

/-- The command in progress advances, or the turn was another's and its own is nearer. -/
theorem step_advances (hinv : s.Inv) (hb : s.params.manualWaitBounded = true) (hcur : s.cu.cur ≠ none)
    (hfree : s.body.hung = none) (hstep : step s = .next t) :
    Advances s.rank t ∨ (t.params = s.params ∧ t.cu = s.cu ∧ t.rank = s.rank ∧ t.stepsAhead < s.stepsAhead) := by
  obtain ⟨hcore, hline⟩ := inv_iff.1 hinv
  obtain ⟨i, hi⟩ := Option.ne_none_iff_exists'.1 hcur
  cases hslot : s.inject with
  | some slot =>
    obtain ⟨p, a⟩ := slot
    rw [step_of_inject hslot] at hstep
    obtain ⟨j, hcode, hexec⟩ := (runCode_next ..).1 hstep
    obtain ⟨he, hc⟩ := decodeAccess_kind hcode
    obtain ⟨hcu, htmo, -, -⟩ := action_keeps hc he hexec
    obtain ⟨es, hforeground⟩ := foreground_next he hexec
    have hbetween : Between s t s.agenda s.draws :=
      ⟨hforeground.params, hcu, htmo, hforeground.agenda, hforeground.draws, hforeground.inject⟩
    refine .inr ⟨hbetween.params, hbetween.cu, hbetween.rank, ?_⟩
    simp [State.stepsAhead, hslot, hbetween.inject, turnsAhead_congr hbetween.agenda hbetween.draws]
  | none =>
    obtain ⟨u, l, hhead⟩ := List.exists_cons_of_ne_nil (schedule_agenda_ne s)
    rw [step_eq_takeTurn hslot hhead] at hstep
    by_cases hu : u = .command
    · subst hu
      have turns : ({ s with agenda := l, draws := s.schedule.draws } : State).Inv := inv_outside hinv (outsideStep_turns s l _)
      rw [takeTurn_command_line (s := { s with agenda := l, draws := s.schedule.draws }) hfree hi] at hstep
      exact .inl (exec_line_advances (s := { s with agenda := l, draws := s.schedule.draws }) (inv_iff.1 turns).1 hb hi (hline i hi) hstep)
    · have hbetween := between_takeTurn hslot hu hstep
      refine .inr ⟨hbetween.params, hbetween.cu, hbetween.rank, ?_⟩
      simpa [State.stepsAhead, hslot, hbetween.inject] using turnsAhead_lt hhead hu hbetween.agenda hbetween.draws

/-- What R166 (1) promises of a run: the unit has responded and is idle, a callback holds the block, or the machine has stopped. -/
def EndsAfter (n : Nat) (s : State) : Prop :=
  match runSteps n s with
  | .next t => (t.cu.cur = none ∧ t.resp ≠ none) ∨ t.body.hung ≠ none
  | .fault _ => True
  | .refused _ => True

/-- By recursion on the rank, and between two lines on the turns before the next of the command unit. -/
theorem exists_endsAfter (s : State) (hinv : s.Inv) (hb : s.params.manualWaitBounded = true) (hcur : s.cu.cur ≠ none) :
    ∃ n, EndsAfter n s := by
  by_cases hfree : s.body.hung = none
  case neg => exact ⟨0, .inr hfree⟩
  cases hstep : step s with
  | fault f => exact ⟨1, by simp [EndsAfter, runSteps, hstep]⟩
  | refused r => exact ⟨1, by simp [EndsAfter, runSteps, hstep]⟩
  | next t =>
    have later (hcur' : t.cu.cur ≠ none) (hlt : t.rank < s.rank ∨ t.rank = s.rank ∧ t.stepsAhead < s.stepsAhead) :
        ∃ n, EndsAfter n s := by
      have hbounded : t.params.manualWaitBounded = true := by
        rw [(stepKeepsParametersAndExtendsTrace s t hstep).1]
        exact hb
      obtain ⟨n, hn⟩ := exists_endsAfter t (stepKeepsTheInvariant s t hinv hstep) hbounded hcur'
      exact ⟨n + 1, by rwa [EndsAfter, runSteps_succ hstep]⟩
    rcases step_advances hinv hb hcur hfree hstep with (hdone | ⟨hcur', hlt⟩) | ⟨-, hcu, hrank, hlt⟩
    · exact ⟨1, by rw [EndsAfter, runSteps_succ hstep]; exact .inl hdone⟩
    · exact later hcur' (.inl hlt)
    · exact later (hcu.symm ▸ hcur) (.inr ⟨hrank, hlt⟩)
termination_by (s.rank, s.stepsAhead)
decreasing_by exact Prod.lex_def.2 hlt

/-- Settles O58. -/
theorem everyCommandEnds : Obligations.EveryCommandEnds := by
  unfold Obligations.EveryCommandEnds
  exact exists_endsAfter

end Sys2Proof.Machine
end

section
/-! A whole WRITE (R102): the acknowledged events of the transmit phase as a run, and the run of the command around them. -/

namespace Sys2Proof.Machine

variable {p : PortId} {v : View}

/-! ### The transmit phase -/

/-- EV_START sends the first byte (R81). -/
theorem runs_evStart {b : Byte} (hp : p.index < v.params.nports) (hb : v.port.txbuf[0]? = some b) :
    ∃ c, Runs p [.evStart p] v
      { v with port := { v.port with txcur := 1, state := .started, dat := zext32 b, ctl := c } }
      [.regWrite p .dat (zext32 b), .regWrite p .conclr (v.params.flag.start ||| v.params.flag.si)] :=
  ⟨_, runs_event (i := .evStart p) hp rfl (.start p b hb)⟩

/-- With the address and every byte acknowledged, the bytes from the cursor to the length are sent, and the acknowledge of the last ends
the transaction (R83, R84). -/
theorem runs_acknowledged {i : Instr} {acks : List Instr} (hp : p.index < v.params.nports)
    (hacks : ∀ j ∈ i :: acks, j = .evSlawAck p ∨ j = .evTxdataAck p) (hlen : v.port.txcur + acks.length = v.port.txlen)
    (hreq : v.port.rxreq = 0) (hbuf : v.port.txlen ≤ v.port.txbuf.length) :
    ∃ c d es,
      Runs p (i :: acks) v
        { v with port := { v.port with txcur := v.port.txlen, state := .ok, dat := d, ctl := c } } es ∧
      wordsTo p .dat es = ((v.port.txbuf.take v.port.txlen).drop v.port.txcur).map zext32 := by
  have kind (j : Instr) (hj : j = .evSlawAck p ∨ j = .evTxdataAck p) : j.port = p ∧ j.isEvent = true := by
    rcases hj with rfl | rfl <;> exact ⟨rfl, rfl⟩
  induction acks generalizing i v with
  | nil =>
    have hi := hacks i (List.mem_cons_self ..)
    obtain ⟨hport, hevent⟩ := kind i hi
    have hdone : v.port.txcur = v.port.txlen := hlen
    have heffect : EventEffect v.params v.port i _ _ := .finish i p .ok (by
      rcases hi with rfl | rfl
      · exact .inl ⟨rfl, rfl, hdone.ge⟩
      · exact .inr (.inl ⟨rfl, rfl, hdone.ge, hreq⟩))
    have hrun := runs_event (hport.symm ▸ hp) hevent heffect
    rw [hport] at hrun
    have hwords : wordsTo p .dat ([.regWrite p .conset v.params.flag.stop, .regWrite p .conclr v.params.flag.si] ++
        cbEntries p v.port) = [] := by
      rw [wordsTo_append, wordsTo_cbEntries]
      simp [wordsTo]
    rw [← hdone, List.drop_take_self, List.map_nil]
    exact ⟨_, _, _, hrun, hwords⟩
  | cons j acks ih =>
    rw [List.length_cons] at hlen
    have hi := hacks i (List.mem_cons_self ..)
    obtain ⟨hport, hevent⟩ := kind i hi
    have hmore : v.port.txcur < v.port.txbuf.length := by omega
    have hb := List.getElem?_eq_getElem hmore
    have hrun := runs_event (hport.symm ▸ hp) hevent (.send i p _ hi (by omega) hb)
    rw [hport] at hrun
    obtain ⟨c, d, es, hrest, hwords⟩ := ih (i := j)
      (v := { v with
        port := { v.port with
          txcur := v.port.txcur + 1
          dat := zext32 v.port.txbuf[v.port.txcur]
          ctl := v.port.ctl &&& ~~~v.params.flag.si } })
      hp (fun k hk => hacks k (List.mem_cons_of_mem _ hk))
      (show v.port.txcur + 1 + acks.length = v.port.txlen by omega) hreq hbuf
    refine ⟨c, d, _, hrun.append hrest, ?_⟩
    have hlt : v.port.txcur < (v.port.txbuf.take v.port.txlen).length := by
      rw [List.length_take]
      omega
    rw [wordsTo_append, hwords, List.drop_eq_getElem_cons hlt, List.getElem_take, List.map_cons]
    simp [wordsTo]

/-- After a run that leaves `size + 1` bytes to send and none to receive, the events of the transmit phase send them in order. -/
theorem Runs.transmit {l : List Instr} {u : View} {es : List TraceEntry} {size : Nat} (h : Runs p l u v es)
    (hp : p.index < v.params.nports) (hlen : v.port.txlen = size + 1) (hreq : v.port.rxreq = 0)
    (hbuf : v.port.txlen ≤ v.port.txbuf.length) :
    ∃ c d fs,
      Runs p (l ++ [.evStart p, .evSlawAck p] ++ List.replicate size (.evTxdataAck p)) u
        { v with port := { v.port with txcur := v.port.txlen, state := .ok, dat := d, ctl := c } } (es ++ fs) ∧
      wordsTo p .dat fs = (v.port.txbuf.take v.port.txlen).map zext32 := by
  have hfirst : 0 < v.port.txbuf.length := by omega
  obtain ⟨c, start⟩ := runs_evStart hp (List.getElem?_eq_getElem hfirst)
  obtain ⟨c', d, fs, acknowledged, hwords⟩ := runs_acknowledged (i := .evSlawAck p) (acks := List.replicate size (.evTxdataAck p))
    (v := { v with port := { v.port with txcur := 1, state := .started, dat := zext32 v.port.txbuf[0], ctl := c } }) hp
    (fun j hj => (List.mem_cons.1 hj).imp id List.eq_of_mem_replicate)
    (by rw [List.length_replicate, hlen, Nat.add_comm]) hreq hbuf
  have hlt : 0 < (v.port.txbuf.take v.port.txlen).length := by
    rw [List.length_take]
    omega
  have hsent : wordsTo p .dat ([.regWrite p .dat (zext32 v.port.txbuf[0]),
      .regWrite p .conclr (v.params.flag.start ||| v.params.flag.si)] ++ fs) = (v.port.txbuf.take v.port.txlen).map zext32 := by
    rw [wordsTo_append, hwords, ← List.drop_zero (l := v.port.txbuf.take v.port.txlen), List.drop_drop,
      List.drop_eq_getElem_cons hlt, List.getElem_take]
    simp [wordsTo]
  have hrun := h.append (start.append acknowledged)
  exact ⟨c', d, _, by rw [List.append_assoc]; exact hrun, hsent⟩

/-! ### ENGINE's return -/

/-- Once the state is final the wait ends and ENGINE returns it to its caller (R105 line 2, R106). -/
theorem runs_engine_ended {c : Instr} (hp : p.index < v.params.nports) (hl : v.cu.line = 4) (hstate : v.port.state.inflight = false)
    (hcaller : v.cu.caller = some c) :
    Runs p (List.replicate 4 (.engine p)) v
      { v with
        cu := { v.cu with
          cur := some c
          caller := none
          line := 7
          idx := 0
          seen := v.port.state
          result := v.port.state } } [] := by
  have leaves {w : View} (hw : p.index < w.params.nports) (hl : w.cu.line = 5) (hseen : w.cu.seen.inflight = false) :
      Runs p [.engine p] w { w with cu := { w.cu with cur := some (.engine p), line := 9 } } [] := by
    refine runs_one rfl rfl fun s hs => ?_
    subst hs
    obtain ⟨-, -, hleaves, -⟩ := engineWaitIterates p s hw
    have hfinal : ¬(s.cu.seen = .busy ∨ s.cu.seen = .started ∨ s.cu.seen = .restarted) := fun h =>
      nomatch hseen.symm.trans (inflight_iff.2 h)
    exact hleaves hl (fun h => hfinal (.inl h)) (fun h => hfinal (.inr (.inl h))) (fun h => hfinal (.inr (.inr h)))
  have returns {w : View} (hw : p.index < w.params.nports) (hl : w.cu.line = 10) (hcaller : w.cu.caller = some c) :
      Runs p [.engine p] w { w with cu := { w.cu with cur := some c, caller := none, line := 7, idx := 0 } } [] := by
    refine runs_one rfl rfl fun s hs => ?_
    subst hs
    obtain ⟨-, hreturns, -⟩ := engineReturnsTheFinalState p s hw
    exact hreturns c hl hcaller
  exact (((runs_engine_see hp hl).append (leaves hp rfl hstate)).append (runs_engine_result hp rfl)).append
    (returns hp rfl hcaller)

/-- WRITE responds ENGINE's code (R102 line 7). -/
theorem runs_write_done {a size : Nat} {data : HostArray} (hp : p.index < v.params.nports) (hd : size ≤ data.len)
    (hl : v.cu.line = 7) :
    Runs p [.write p a data size] v { v with cu := .idle, resp := some (.done v.cu.result) } [] := by
  refine runs_one rfl rfl fun s hs => ?_
  subst hs
  obtain ⟨-, -, -, -, -, -, -, hdone⟩ := writePerformsItsLines p a data size s hp hd
  exact hdone hl

/-- The bytes laid out by WRITE or READ, without those above. -/
theorem take_laidOut (address : Byte) (payload : Nat → Byte) (old : List Byte) (k : Nat) :
    (laidOut address payload old k).take (k + 1) = address :: (List.range k).map payload :=
  List.take_left' (by simp)

/-- Settles O59: packing, entry, the events of the transmit phase, the end of the wait, the response. -/
theorem writeSendsAddressAndDataInOrder : Obligations.WriteSendsAddressAndDataInOrder := by
  unfold Obligations.WriteSendsAddressAndDataInOrder
  intro p a data size s hp hd hlen hfits hl
  have packing := runs_write_packing (a := a) (v := s.view p) hp hd hlen hfits hl
  have entry := packing.append (runs_engine_entry hp (show 1 < 2 by omega))
  have hroom : size + 1 ≤ (laidOut (addrByte a false) ((s.view p).payload data) (s.port p).txbuf size).length := by
    rw [length_laidOut] <;> omega
  obtain ⟨c, d, es, sent, hwords⟩ := entry.transmit (size := size) hp rfl rfl hroom
  have ended := (sent.append (runs_engine_ended hp rfl rfl rfl)).append (runs_write_done (a := a) hp hd rfl)
  obtain ⟨-, -, hrun⟩ := ended
  obtain ⟨t, hnext, hport, htrace, -, hcu, -, hresp, -, -⟩ := hrun s rfl
  have hstart (w : Word) : wordsTo p .dat ([] ++ [.regWrite p .conset w]) = [] := by simp [wordsTo]
  have hbytes := take_laidOut (addrByte a false) ((s.view p).payload data) (s.port p).txbuf size
  refine ⟨t, hnext, hresp, hcu, by rw [hport], by rw [hport], _, htrace, ?_⟩
  rw [List.append_nil, List.append_nil, wordsTo_append, hwords, hstart]
  exact congrArg (List.map zext32) hbytes

end Sys2Proof.Machine
end

section
/-! A whole read phase (R82, R90 to R92): the turns in which the bus controller presents a code and the event step runs, and what they send,
store and acknowledge. -/

namespace Sys2Proof.Machine

variable {p : PortId} {s t u : State} {code b : Byte} {i : Instr} {y : Port} {es : List TraceEntry}

/-! ### One bus event in protocol order (R42) -/

/-- The port waits for the bus controller: its interrupt enabled, none requested, and no callback holds the block. -/
structure Listening (p : PortId) (s : State) : Prop where
  free : s.body.hung = none
  enabled : (s.port p).irqEn = true
  clear : (s.port p).ctl &&& s.params.flag.si = 0

/-- The port after the bus controller has presented a status byte. -/
def presented (P : Params) (code : Byte) (x : Port) : Port := { x with stat := zext32 code, ctl := x.ctl ||| P.flag.si }

theorem takeTurn_raise (hclear : (s.port p).ctl &&& s.params.flag.si = 0) :
    takeTurn (.raise p (zext32 code)) s = .next (s.modPort p (presented s.params code)) :=
  congrArg Host.Outcome.next (if_pos hclear)

/-- A code presented to a listening port runs the body it selects, from the port as presented. -/
theorem busEvent_next (hwf : s.params.wf = true) (hp : p.index < s.params.nports) (hs : Listening p s)
    (hclass : classify s.params.sc p code = i) (heffect : EventEffect s.params (presented s.params code (s.port p)) i y es) :
    ∃ t, runTurns (busEvent p code) s = .next t ∧ t.params = s.params ∧ t.port p = y ∧
      t.trace = s.trace ++ .regRead p .stat (zext32 code) :: es ∧ t.body = bodyAfter es s.body := by
  have hi : i.isEvent = true := hclass ▸ classify_isEvent ..
  have hip : i.port = p := hclass ▸ classify_port ..
  have hraised : ((s.modPort p (presented s.params code)).port p) = presented s.params code (s.port p) := modPort_port_same ..
  have hset : (presented s.params code (s.port p)).ctl &&& s.params.flag.si ≠ 0 := by
    rw [presented, or_and_self]
    exact (flagsSeparate_of_wf hwf).si_ne
  have hturn := takeTurn_event_enabled (s := s.modPort p (presented s.params code)) (p := p) (by rw [modPort_body]; exact hs.free)
    (by rwa [modPort_params]) (by rw [hraised]; exact hs.enabled) (by rwa [hraised, modPort_params])
  rw [hraised, modPort_params, presented, lowByte_zext32, hclass] at hturn
  have hanswers := answersPort_of_eventEffect (s := actReadStatus p (s.modPort p (presented s.params code))) (i := i)
    (y := y) (es := es) (by rwa [hip, actReadStatus, regRead_params, modPort_params]) hi
    (by rwa [hip, actReadStatus, regRead_params, regRead_port, hraised, modPort_params])
  obtain ⟨t, hnext, hport, htrace, hbody, -, -, -, -, hparams, -⟩ := hanswers
  refine ⟨t, ?_, ?_, hip ▸ hport, ?_, ?_⟩
  · rw [busEvent, runTurns_cons_next (takeTurn_raise hs.clear), runTurns_cons_next (hturn.trans hnext)]
    rfl
  · rw [hparams, actReadStatus, regRead_params, modPort_params]
  · rw [htrace, actReadStatus, regRead_trace, hraised, modPort_trace, List.append_assoc]
    rfl
  · rw [hbody, actReadStatus, regRead_body, modPort_body]

/-- After an event that fires no callback the port listens again. -/
theorem listening_of_eventEffect {x : Port} (hwf : s.params.wf = true) (hs : Listening p s) (hx : x.irqEn = (s.port p).irqEn)
    (heffect : EventEffect s.params x i y es) (hsilent : bodyAfter es s.body = s.body) (hparams : t.params = s.params)
    (hport : t.port p = y) (hbody : t.body = bodyAfter es s.body) : Listening p t := by
  obtain ⟨hclear, -⟩ := eventEffect_clearsSI (flagsSeparate_of_wf hwf) heffect
  refine ⟨?_, ?_, ?_⟩
  · rw [hbody, hsilent, hs.free]
  · rw [hport, eventEffect_irqEn heffect, hx, hs.enabled]
  · rw [hport, hparams, hclear]

/-! ### What a part of the read phase sends and acknowledges -/

/-- From `s` to `t` the bytes `sent` went to DAT, and ACK was asserted `acks` times and cleared `nacks` times. -/
structure ReadPart (p : PortId) (s t : State) (sent : List Word) (acks nacks : Nat) : Prop where
  params : t.params = s.params
  rxreq : (t.port p).rxreq = (s.port p).rxreq
  words : ∃ l, t.trace = s.trace ++ l ∧ wordsTo p .dat l = sent ∧ (wordsTo p .conset l).count s.params.flag.ack = acks ∧
    (wordsTo p .conclr l).count s.params.flag.ack = nacks

theorem ReadPart.trans {sent sent' : List Word} {acks acks' nacks nacks' : Nat} (h : ReadPart p s t sent acks nacks)
    (k : ReadPart p t u sent' acks' nacks') : ReadPart p s u (sent ++ sent') (acks + acks') (nacks + nacks') := by
  obtain ⟨hparams, hreq, l, htrace, hsent, hacks, hnacks⟩ := h
  obtain ⟨kparams, kreq, m, ktrace, ksent, kacks, knacks⟩ := k
  rw [hparams] at kacks knacks
  refine ⟨kparams.trans hparams, kreq.trans hreq, l ++ m, by rw [ktrace, htrace, List.append_assoc], ?_, ?_, ?_⟩
  · rw [wordsTo_append, hsent, ksent]
  · rw [wordsTo_append, List.count_append, hacks, kacks]
  · rw [wordsTo_append, List.count_append, hnacks, knacks]

theorem wordsTo_regRead_cons {q : PortId} {rr : ReadReg} {w : Word} (r : WriteReg) :
    wordsTo p r (.regRead q rr w :: es) = wordsTo p r es :=
  rfl

/-- No other word of R61 is ACK's. -/
theorem ack_ne_words {f : FlagMasks} (hf : FlagsSeparate f) :
    f.start ≠ f.ack ∧ f.stop ≠ f.ack ∧ f.si ≠ f.ack ∧ f.start ||| f.si ≠ f.ack := by
  have differs {a : Word} (ha : a &&& f.ack = 0) : a ≠ f.ack := (ne_of_and_mask hf.ack_ne BitVec.and_self ha).symm
  refine ⟨differs hf.start_ack, differs hf.stop_ack, differs hf.si_ack, differs ?_⟩
  rw [BitVec.and_or_distrib_right, hf.start_ack, hf.si_ack]
  rfl

/-- A bus event without a callback, as a part of the read phase. -/
theorem busEvent_part (hwf : s.params.wf = true) (hp : p.index < s.params.nports) (hs : Listening p s)
    (hclass : classify s.params.sc p code = i) (heffect : EventEffect s.params (presented s.params code (s.port p)) i y es)
    (hsilent : bodyAfter es s.body = s.body) (hreq : y.rxreq = (s.port p).rxreq) :
    ∃ t, runTurns (busEvent p code) s = .next t ∧ Listening p t ∧ t.port p = y ∧
      ReadPart p s t (wordsTo p .dat es) ((wordsTo p .conset es).count s.params.flag.ack)
        ((wordsTo p .conclr es).count s.params.flag.ack) := by
  obtain ⟨t, hnext, hparams, hport, htrace, hbody⟩ := busEvent_next hwf hp hs hclass heffect
  have hlistening := listening_of_eventEffect (x := presented s.params code (s.port p)) hwf hs rfl heffect hsilent hparams hport
    hbody
  exact ⟨t, hnext, hlistening, hport, hparams, hport ▸ hreq, _, htrace, rfl, rfl, rfl⟩

theorem codes_of_wf {P : Params} (hwf : P.wf = true) (p : PortId) :
    classify P.sc p P.sc.rstart = .evRstart p ∧ classify P.sc p P.sc.slarAck = .evSlarAck p ∧
      classify P.sc p P.sc.rxdataAck = .evRxdataAck p ∧ classify P.sc p P.sc.rxdataNack = .evRxdataNack p := by
  obtain ⟨-, hrstart, -, -, -, -, -, hslar, -, hack, hnack⟩ := classify_code_of_nodup (codes_nodup_of_wf hwf) p
  exact ⟨hrstart, hslar, hack, hnack⟩

/-- The repeated START sends the read-address byte (R82). -/
theorem rstart_part (hwf : s.params.wf = true) (hp : p.index < s.params.nports) (hs : Listening p s)
    (hb : (s.port p).txbuf[(s.port p).txlen]? = some b) :
    ∃ t, runTurns (busEvent p s.params.sc.rstart) s = .next t ∧ Listening p t ∧ (t.port p).rxcur = 0 ∧
      (t.port p).rxbuf = (s.port p).rxbuf ∧ ReadPart p s t [zext32 b] 0 0 := by
  obtain ⟨hclass, -⟩ := codes_of_wf hwf p
  obtain ⟨-, -, -, hne⟩ := ack_ne_words (flagsSeparate_of_wf hwf)
  obtain ⟨t, hnext, hlistening, hport, hpart⟩ := busEvent_part hwf hp hs hclass (.rstart p b hb) rfl rfl
  refine ⟨t, hnext, hlistening, by rw [hport], by rw [hport]; rfl, ?_⟩
  simpa [wordsTo, hne] using hpart

/-- The read address acknowledged: ACK if more than one byte is to come (R90). -/
theorem slarAck_part (hwf : s.params.wf = true) (hp : p.index < s.params.nports) (hs : Listening p s) :
    ∃ t, runTurns (busEvent p s.params.sc.slarAck) s = .next t ∧ Listening p t ∧ (t.port p).rxcur = (s.port p).rxcur ∧
      (t.port p).rxbuf = (s.port p).rxbuf ∧
      ReadPart p s t [] (if (s.port p).rxcur + 1 < (s.port p).rxreq then 1 else 0)
        (if (s.port p).rxcur + 1 < (s.port p).rxreq then 0 else 1) := by
  obtain ⟨-, hclass, -⟩ := codes_of_wf hwf p
  obtain ⟨-, -, hne, -⟩ := ack_ne_words (flagsSeparate_of_wf hwf)
  split
  case isTrue hmore =>
    obtain ⟨t, hnext, hlistening, hport, hpart⟩ := busEvent_part hwf hp hs hclass (.slarMore p hmore) rfl rfl
    refine ⟨t, hnext, hlistening, by rw [hport]; rfl, by rw [hport]; rfl, ?_⟩
    simpa [wordsTo, hne] using hpart
  case isFalse hlast =>
    obtain ⟨t, hnext, hlistening, hport, hpart⟩ := busEvent_part hwf hp hs hclass (.slarLast p (not_lt.1 hlast)) rfl rfl
    refine ⟨t, hnext, hlistening, by rw [hport]; rfl, by rw [hport]; rfl, ?_⟩
    simpa [wordsTo, hne] using hpart

/-- The port after the bus controller has loaded a byte. -/
def loaded (b : Byte) (x : Port) : Port := { x with dat := zext32 b }

theorem listening_loaded (hs : Listening p s) : Listening p (s.modPort p (loaded b)) := by
  refine ⟨?_, ?_, ?_⟩
  · rw [modPort_body]
    exact hs.free
  · rw [modPort_port_same]
    exact hs.enabled
  · rw [modPort_port_same, modPort_params]
    exact hs.clear

theorem ReadPart.of_loaded {sent : List Word} {acks nacks : Nat} (h : ReadPart p (s.modPort p (loaded b)) t sent acks nacks) :
    ReadPart p s t sent acks nacks := by
  obtain ⟨hparams, hreq, hwords⟩ := h
  rw [modPort_params] at hparams hwords
  rw [modPort_port_same] at hreq
  rw [modPort_trace] at hwords
  exact ⟨hparams, hreq, hwords⟩

/-- A byte arrives with an acknowledge: it is stored, and ACK is asserted again if it was not the last but one (R91). -/
theorem rxdataAck_part (hwf : s.params.wf = true) (hp : p.index < s.params.nports) (hs : Listening p s)
    (hroom : (s.port p).rxcur < (s.port p).rxbuf.length) :
    ∃ t, runTurns (.load p (zext32 b) :: busEvent p s.params.sc.rxdataAck) s = .next t ∧ Listening p t ∧
      (t.port p).rxcur = (s.port p).rxcur + 1 ∧ (t.port p).rxbuf = (s.port p).rxbuf.set (s.port p).rxcur b ∧
      ReadPart p s t [] (if (s.port p).rxcur + 2 < (s.port p).rxreq then 1 else 0)
        (if (s.port p).rxcur + 2 < (s.port p).rxreq then 0 else 1) := by
  have hload : takeTurn (.load p (zext32 b)) s = .next (s.modPort p (loaded b)) := rfl
  have hport : (s.modPort p (loaded b)).port p = loaded b (s.port p) := modPort_port_same ..
  have hparams : (s.modPort p (loaded b)).params = s.params := modPort_params ..
  obtain ⟨-, -, hclass, -⟩ := codes_of_wf hwf p
  obtain ⟨-, -, hne, -⟩ := ack_ne_words (flagsSeparate_of_wf hwf)
  have hevent {y : Port} {es : List TraceEntry} := busEvent_part (i := .evRxdataAck p) (y := y) (es := es)
    (hparams.symm ▸ hwf) (by rwa [hparams]) (listening_loaded hs) (by rwa [hparams])
  rw [hport, hparams] at hevent
  rw [runTurns_cons_next hload]
  split
  case isTrue hmore =>
    obtain ⟨t, hnext, hlistening, hport, hpart⟩ := hevent (.storeMore p hroom hmore) rfl rfl
    refine ⟨t, hnext, hlistening, by rw [hport]; rfl, by rw [hport]; simp [presented, loaded], ?_⟩
    simpa [wordsTo, hne] using hpart.of_loaded
  case isFalse hlast =>
    obtain ⟨t, hnext, hlistening, hport, hpart⟩ := hevent (.storeLast p hroom (not_lt.1 hlast)) rfl rfl
    refine ⟨t, hnext, hlistening, by rw [hport]; rfl, by rw [hport]; simp [presented, loaded], ?_⟩
    simpa [wordsTo, hne] using hpart.of_loaded

/-- The last byte arrives without an acknowledge: it is stored, and the transaction ends with OK (R92). -/
theorem rxdataNack_part (hwf : s.params.wf = true) (hp : p.index < s.params.nports) (hs : Listening p s)
    (hroom : (s.port p).rxcur < (s.port p).rxbuf.length) :
    ∃ t, runTurns (.load p (zext32 b) :: busEvent p s.params.sc.rxdataNack) s = .next t ∧ (t.port p).state = .ok ∧
      (t.port p).rxcur = (s.port p).rxcur + 1 ∧ (t.port p).rxbuf = (s.port p).rxbuf.set (s.port p).rxcur b ∧
      ReadPart p s t [] 0 0 := by
  have hload : takeTurn (.load p (zext32 b)) s = .next (s.modPort p (loaded b)) := rfl
  have hport : (s.modPort p (loaded b)).port p = loaded b (s.port p) := modPort_port_same ..
  have hparams : (s.modPort p (loaded b)).params = s.params := modPort_params ..
  obtain ⟨-, -, -, hclass⟩ := codes_of_wf hwf p
  obtain ⟨-, hne, hne', -⟩ := ack_ne_words (flagsSeparate_of_wf hwf)
  have hevent {y : Port} {es : List TraceEntry} := busEvent_next (i := .evRxdataNack p) (y := y) (es := es)
    (hparams.symm ▸ hwf) (by rwa [hparams]) (listening_loaded hs) (by rwa [hparams])
  rw [hport, hparams, modPort_trace, modPort_body] at hevent
  obtain ⟨t, hnext, hkeeps, hstored, htrace, -⟩ := hevent (.storeEnd p hroom)
  refine ⟨t, (runTurns_cons_next hload).trans hnext, by rw [hstored], by rw [hstored]; rfl,
    by rw [hstored]; simp [presented, loaded], hkeeps, by rw [hstored]; rfl, _, htrace, ?_⟩
  simp only [wordsTo_regRead_cons, wordsTo_append, wordsTo_cbEntries, List.append_nil]
  simp [wordsTo, hne, hne']

/-- One byte more in front of the cursor. -/
theorem take_set_succ {α : Type} {l : List α} {k : Nat} (hk : k < l.length) (b : α) : (l.set k b).take (k + 1) = l.take k ++ [b] := by
  rw [List.take_add_one, List.take_set_of_le le_rfl, List.getElem?_set_self hk]
  rfl

/-- The bytes of a read arrive at a listening port: they are stored from the cursor on, with ACK asserted for all but the last two, cleared
for the last but one, and OK at the end. -/
theorem byteArrivals_part {bs : List Byte} (hwf : s.params.wf = true) (hp : p.index < s.params.nports) (hs : Listening p s)
    (hreq : (s.port p).rxcur + (bs.length + 1) = (s.port p).rxreq) (hroom : (s.port p).rxreq ≤ (s.port p).rxbuf.length) :
    ∃ t, runTurns (byteArrivals p s.params.sc (b :: bs)) s = .next t ∧ (t.port p).state = .ok ∧
      (t.port p).rxcur = (t.port p).rxreq ∧
      (t.port p).rxbuf.take (s.port p).rxreq = (s.port p).rxbuf.take (s.port p).rxcur ++ b :: bs ∧
      ReadPart p s t [] (bs.length - 1) (if bs = [] then 0 else 1) := by
  induction bs generalizing b s with
  | nil =>
    rw [List.length_nil] at hreq
    obtain ⟨t, hnext, hstate, hcur, hbuf, hpart⟩ := rxdataNack_part (b := b) hwf hp hs (by omega)
    refine ⟨t, hnext, hstate, by rw [hcur, hpart.rxreq]; exact hreq, ?_, hpart⟩
    rw [hbuf, ← hreq]
    exact take_set_succ (by omega) b
  | cons b' bs ih =>
    rw [List.length_cons] at hreq
    obtain ⟨u, hnext, hlistening, hcur, hbuf, hpart⟩ := rxdataAck_part (b := b) hwf hp hs (by omega)
    have hparams := hpart.params
    obtain ⟨t, hrest, hstate, hend, htake, hparts⟩ := ih (b := b') (hparams ▸ hwf) (hparams ▸ hp) hlistening
      (by rw [hcur, hpart.rxreq]; omega) (by rw [hbuf, hpart.rxreq, List.length_set]; exact hroom)
    rw [hparams] at hrest
    refine ⟨t, (runTurns_append hnext).trans hrest, hstate, hend, ?_, ?_⟩
    · rw [hcur, hbuf, hpart.rxreq, take_set_succ (by omega)] at htake
      rw [htake, List.append_assoc]
      rfl
    · have hall := hpart.trans hparts
      cases bs with
      | nil =>
        rw [List.length_nil] at hreq
        rw [if_neg (by omega), if_neg (by omega)] at hall
        exact hall
      | cons b'' bs =>
        rw [List.length_cons] at hreq
        rw [if_pos (by omega), if_pos (by omega), List.length_cons, Nat.add_sub_cancel, Nat.add_comm] at hall
        exact hall

/-- Settles O60: the repeated START, the read address acknowledged, and the bytes as they arrive. -/
theorem readPhaseReceivesBytesInOrder : Obligations.ReadPhaseReceivesBytesInOrder := by
  unfold Obligations.ReadPhaseReceivesBytesInOrder
  intro p bs b s hwf hp hlen hfits hfree hb hirq hclear hne hreq
  obtain ⟨b₀, rest, rfl⟩ := List.exists_cons_of_ne_nil hne
  rw [List.length_cons] at hreq
  obtain ⟨u, hrstart, ulistening, ucur, ubuf, upart⟩ := rstart_part hwf hp ⟨hfree, hirq, hclear⟩ hb
  have uparams := upart.params
  obtain ⟨v, hslar, vlistening, vcur, vbuf, vpart⟩ := slarAck_part (hwf := uparams ▸ hwf) (uparams ▸ hp) ulistening
  have vparams := vpart.params.trans uparams
  obtain ⟨t, hbytes, hstate, hend, htake, tpart⟩ := byteArrivals_part (b := b₀) (bs := rest) (vparams ▸ hwf)
    (vparams ▸ hp) vlistening (by rw [vcur, ucur, vpart.rxreq, upart.rxreq]; omega)
    (by rw [vbuf, ubuf, vpart.rxreq, upart.rxreq]; omega)
  rw [uparams] at hslar
  rw [vparams] at hbytes
  have hall := (upart.trans vpart).trans tpart
  rw [ucur, upart.rxreq, ← hreq] at hall
  refine ⟨t, ?_, ?_, hend, hstate, ?_⟩
  · rw [List.append_assoc, runTurns_append hrstart, runTurns_append hslar, hbytes]
  · rw [vcur, ucur, vpart.rxreq, upart.rxreq, ← hreq] at htake
    exact htake
  · cases rest with
    | nil => exact hall.words
    | cons b₁ rest =>
      obtain ⟨-, -, hwords⟩ := hall
      simpa [Nat.add_comm] using hwords

end Sys2Proof.Machine
end
